-- ==== Sys2Proof/Word.lean ====
section
/-!
DEFINITION. The word types of S16CORE: what the spec treats as bits, and the two lane files.
Widths are those of 00_scope.md R7 and 10_state.md R18 to R25.
-/

namespace Sys2Proof

/-- A packed word, and a result lane (WORD_BITS and RES_LANE_BITS of R7). -/
abbrev Word := BitVec 32

/-- One byte of a stream (R35). -/
abbrev Byte := BitVec 8

/-- Bits 31:28 of a packed word, the index of its layout (R49). -/
abbrev Selector := BitVec 4

/-- Bits 27:0 of a packed word (R49). -/
abbrev Payload := BitVec 28

/-- The operation field of the control byte (R59). -/
abbrev Operation := BitVec 3

/-- The count field of the control byte, and the width of RES.count (R59, R22). -/
abbrev Count := BitVec 5

/-- One input lane. A lane is IN_W bits wide with IN_W one of 8, 16, 32, 64 (R8, R20); the cell has
the largest of the four widths, and `Instr.wellFormed` bounds its value by IN_W (log 3). -/
abbrev Lane := BitVec 64

/-- The 28 input lanes of a command (R9, R20). -/
abbrev Lanes := Vector Lane 28

/-- The 28 result lanes (R25). -/
abbrev ResultLanes := Vector Word 28

end Sys2Proof
end

