-- ==== Sys2Proof/Machine/Flags.lean ====
section
/-!
DEFINITION. The block has no flags (10_state.md R32). What a command leaves of how it went is its
completion code in RES.status; the codes are those of 60_exceptions.md R118.
-/

namespace Sys2Proof.Machine

/-- The completions of R118; codes 6 and 7 are never written. -/
inductive Status where
  | ok
  | valueOutOfRange
  | noFit
  | emptyWindow
  | badCount
  | illegalCommand
deriving DecidableEq, Repr

/-- The value RES.status takes (R118). -/
def Status.code : Status → BitVec 3
  | .ok => 0#3
  | .valueOutOfRange => 1#3
  | .noFit => 2#3
  | .emptyWindow => 3#3
  | .badCount => 4#3
  | .illegalCommand => 5#3

end Sys2Proof.Machine
end

