-- ==== Sys2Proof/Config.lean ====
section
/-!
DEFINITION. What an implementation fixes (the input width IN_W, 00_scope.md R8) and the one value
the spec leaves free (43_stream_operations.md R105).
-/

namespace Sys2Proof

/-- The four storage widths of one input value (R8). A block has one of them, fixed when it is built;
the machine's state carries it, so that every claim over all states is a claim over all four (log 2). -/
inductive InputWidth where
  | w8
  | w16
  | w32
  | w64
deriving DecidableEq, Repr

/-- IN_W as a number of bits (R8). -/
def InputWidth.bits : InputWidth → Nat
  | .w8 => 8
  | .w16 => 16
  | .w32 => 32
  | .w64 => 64

/-- FREE VALUE (log 9): the bytes a failing COMPRESS leaves after the caller's old bytes, one byte
sequence for each draw. R105: "a model must still treat t as unspecified (a draw)". -/
opaque Config.compressFailTail : Nat → List Byte

end Sys2Proof
end

