-- ==== Sys2Proof/Syntax.lean ====
section
/-!
DEFINITION. What the host can put on the block's input, as raw fields (`Command`, `Input`), and the
instructions they encode (`Instr`): one constructor per row of spec/opcode_table.json.
-/

namespace Sys2Proof

/-- The command record CMD of R18: the control byte CMD_CTRL (n in bits 7:3, op in bits 2:0, R59),
the 28 input lanes (R20) and the input word (R21). -/
structure Command where
  ctrl : Byte
  lanes : Lanes
  word : Word
deriving DecidableEq, Repr

/-- The two formats of the opcode table as they stand on the block's input: a command record
(CMD_CTRL8, R59) or a packed word on its own (WORD32, R49; log 6). -/
inductive Input where
  | command (c : Command)
  | packed (w : Word)
deriving DecidableEq, Repr

/-- The instructions: the four commands with the fields each reads (R60), and the packed word in each
of its 16 layouts with the payload that holds the slots (R64 to R79). -/
inductive Instr where
  /-- VALIDATE, R81. -/
  | validate (n : Count) (lanes : Lanes)
  /-- PACK, R88. -/
  | pack (n : Count) (lanes : Lanes)
  /-- SELECT, R89. -/
  | select (n : Count) (lanes : Lanes)
  /-- UNPACK, R98; its n is accepted and ignored (R62). -/
  | unpack (n : Count) (word : Word)
  /-- WORD_LAYOUT0, R64: 28 slots of 1 bit. -/
  | wordLayout0 (payload : Payload)
  /-- WORD_LAYOUT1, R65: 7 slots of 2 bits, then 14 of 1. -/
  | wordLayout1 (payload : Payload)
  /-- WORD_LAYOUT2, R66: 7 slots of 1 bit, 7 of 2, 7 of 1. -/
  | wordLayout2 (payload : Payload)
  /-- WORD_LAYOUT3, R67: 14 slots of 1 bit, then 7 of 2. -/
  | wordLayout3 (payload : Payload)
  /-- WORD_LAYOUT4, R68: 14 slots of 2 bits. -/
  | wordLayout4 (payload : Payload)
  /-- WORD_LAYOUT5, R69: one slot of 4 bits, then 8 of 3. -/
  | wordLayout5 (payload : Payload)
  /-- WORD_LAYOUT6, R70: one slot of 3 bits, 4 of 4, 3 of 3. -/
  | wordLayout6 (payload : Payload)
  /-- WORD_LAYOUT7, R71: 7 slots of 4 bits. -/
  | wordLayout7 (payload : Payload)
  /-- WORD_LAYOUT8, R72: 4 slots of 5 bits, then 2 of 4. -/
  | wordLayout8 (payload : Payload)
  /-- WORD_LAYOUT9, R73: 2 slots of 4 bits, then 4 of 5. -/
  | wordLayout9 (payload : Payload)
  /-- WORD_LAYOUT10, R74: 3 slots of 6 bits, then 2 of 5. -/
  | wordLayout10 (payload : Payload)
  /-- WORD_LAYOUT11, R75: 2 slots of 5 bits, then 3 of 6. -/
  | wordLayout11 (payload : Payload)
  /-- WORD_LAYOUT12, R76: 4 slots of 7 bits. -/
  | wordLayout12 (payload : Payload)
  /-- WORD_LAYOUT13, R77: slots of 10, 9 and 9 bits. -/
  | wordLayout13 (payload : Payload)
  /-- WORD_LAYOUT14, R78: 2 slots of 14 bits. -/
  | wordLayout14 (payload : Payload)
  /-- WORD_LAYOUT15, R79: one slot of 28 bits. -/
  | wordLayout15 (payload : Payload)
deriving DecidableEq, Repr

end Sys2Proof
end

