-- ==== Sys2Proof/Machine/State.lean ====
section
/-!
DEFINITION. The machine's state: the result register set of 10_state.md R22, the configuration IN_W
(R8), and the model's own fields: what the host will do next, and a count of free values drawn.
-/

namespace Sys2Proof.Machine

/-- The result registers by name, as a host reads them (R22). -/
inductive ResultReg where
  | valid
  | status
  | sel
  | count
  | word
  | lane (j : Fin 28)
deriving DecidableEq, Repr

/-- What the host can do to the block, one thing at a time (R43). -/
inductive HostAction where
  /-- Put a command or a packed word on the block's input (R18; log 6). -/
  | present (x : Input)
  /-- Read a result register (R22, R42). -/
  | read (r : ResultReg)
  /-- Assert reset (R29, R132). -/
  | reset
deriving DecidableEq, Repr

/-- The state. R15: the architectural state is exactly the result register set. -/
structure State where
  /-- RES.valid, R23. -/
  valid : Bool
  /-- RES.status, R24. -/
  status : BitVec 3
  /-- RES.sel, R26. -/
  sel : Selector
  /-- RES.count, R27. -/
  count : Count
  /-- RES.word, R28. -/
  word : Word
  /-- RES.lane[0..27], R25. -/
  lane : ResultLanes
  /-- IN_W, fixed when the block is built (R8, R15): no step writes it (log 2). -/
  inW : InputWidth
  /-- The MODEL's own: what the host does next, oldest first (R18, R43; log 4). -/
  input : List HostAction
  /-- The MODEL's own: how many free values have been drawn (log 9). -/
  draws : Nat
deriving DecidableEq, Repr

/-- Reasons the machine stops with a fault. -/
inductive Fault where
  /-- Raised by a host read of a result register other than RES.valid while RES.valid = 0: "a fault of
  the model" (R29, D13, item U1 of 93_implementation_defined.md), and a read the host must not make
  (R134). No instruction raises it. Safe: a real block might answer such a read (log 8). -/
  | readBeforeCommand (r : ResultReg)
  /-- Raised by a stream operation whose loop is not done within the bound of R104. Safe; never
  reached, since every PACK and SELECT of the loop consumes a value (log 11). -/
  | streamLoopBound
deriving DecidableEq, Repr

/-- Reasons the machine gives no meaning. -/
inductive Refusal where
  /-- Raised by `exec` for an instruction with no meaning; no arm raises it. Safe. -/
  | notModelled (mnemonic : String)
  /-- Raised by the step when the host presents a lane value that an IN_W-bit lane cannot hold (R20):
  no such command exists for this block (log 3). Safe. -/
  | laneTooWide
deriving DecidableEq, Repr

/-- A block of input width `w` right after reset (R29, R132). RES.valid is 0 by the spec; the other
result registers hold 0 by the model's choice (log 1); the host has presented nothing. -/
def State.resetOf (w : InputWidth) : State where
  valid := false
  status := 0#3
  sel := 0#4
  count := 0#5
  word := 0#32
  lane := Vector.replicate 28 0#32
  inW := w
  input := []
  draws := 0

/-- The machine right after reset, with IN_W = 32 (DESIGN CHOICE, log 2; `State.resetOf` gives the
other widths). -/
def State.reset : State := State.resetOf .w32

end Sys2Proof.Machine
end

