-- ==== Sys2Proof/Machine/Ops.lean ====
section
/-!
DEFINITION. The named operations on the result registers: the two completions of 60_exceptions.md
R119 and R120, reset (10_state.md R29), and the host's read (R22, R29, R42). The block has no memory
(20_memory.md R34) and takes no exception (60_exceptions.md R126): an error is the completion R119.
-/

namespace Sys2Proof.Machine

/-- The data result registers as one completion writes them. A register that the command's rule does
not name is written 0 (R120), so each field's default is 0. -/
structure Results where
  sel : Selector := 0#4
  count : Count := 0#5
  word : Word := 0#32
  lane : ResultLanes := Vector.replicate 28 0#32
deriving DecidableEq, Repr

/-- Write every result register at once (R42): the code, the data, and RES.valid <- 1. -/
def State.complete (s : State) (code : Status) (r : Results) : State :=
  { s with valid := true, status := code.code, sel := r.sel, count := r.count, word := r.word,
           lane := r.lane }

/-- Normal completion, `complete OK` (R120). -/
def State.completeOk (s : State) (r : Results) : State := s.complete .ok r

/-- Error completion, `raise Status(code)`: every data register 0 and nothing else written (R119). -/
def State.raiseStatus (s : State) (code : Status) : State := s.complete code {}

/-- Reset (R29, R132): the result registers as `State.resetOf` has them. The layout ROM is a constant,
IN_W stays, and so do the model's own fields (log 14). -/
def State.applyReset (s : State) : State :=
  { State.resetOf s.inW with input := s.input, draws := s.draws }

/-- The content of a result register, zero-extended to 32 bits for the host (R22; log 19). -/
def State.resultValue (s : State) : ResultReg → Word
  | .valid => if s.valid then 1#32 else 0#32
  | .status => s.status.setWidth 32
  | .sel => s.sel.setWidth 32
  | .count => s.count.setWidth 32
  | .word => s.word
  | .lane j => s.lane[j]

/-- A host read. RES.valid always answers; every other register "holds a value only while
RES.valid = 1" (R23), and reading it while RES.valid = 0 "is a fault of the model" (R29; U1, D13). No
side effect (R42). -/
def hostRead (r : ResultReg) (s : State) : Host.Outcome Word Fault Refusal :=
  if s.valid || r == .valid then .next (s.resultValue r) else .fault (.readBeforeCommand r)

/-- The host puts `x` on the block's input ahead of anything it has planned (R18). -/
def State.present (s : State) (x : Input) : State := { s with input := .present x :: s.input }

end Sys2Proof.Machine
end

