-- ==== Sys2Proof/WellFormed.lean ====
section
/-!
DEFINITION. The one check on instructions: every input lane of a command holds a value that an
IN_W-bit lane can hold (10_state.md R20). Field widths are already in the types, and every count
n of 0 to 31 is an instruction (R62 gives 29 to 31 a completion).
-/

namespace Sys2Proof

/-- Every lane's value is in `0 .. 2^IN_W - 1` (R20). -/
def Lanes.fitWidth (w : InputWidth) (lanes : Lanes) : Bool :=
  lanes.toList.all fun v => decide (v.toNat < 2 ^ w.bits)

/-- An instruction that a block of input width `w` can be given (R8, R20). -/
def Instr.wellFormed (w : InputWidth) : Instr → Bool
  | .validate _ lanes => lanes.fitWidth w
  | .pack _ lanes => lanes.fitWidth w
  | .select _ lanes => lanes.fitWidth w
  | .unpack _ _ => true
  | .wordLayout0 _ => true
  | .wordLayout1 _ => true
  | .wordLayout2 _ => true
  | .wordLayout3 _ => true
  | .wordLayout4 _ => true
  | .wordLayout5 _ => true
  | .wordLayout6 _ => true
  | .wordLayout7 _ => true
  | .wordLayout8 _ => true
  | .wordLayout9 _ => true
  | .wordLayout10 _ => true
  | .wordLayout11 _ => true
  | .wordLayout12 _ => true
  | .wordLayout13 _ => true
  | .wordLayout14 _ => true
  | .wordLayout15 _ => true

end Sys2Proof
end

