-- ==== Sys2Proof/Decode.lean ====
section
/-!
DEFINITION. The decoder, total on any input and rejecting by name, and the encoder, both from
30_encoding.md: the control byte of R59 and R60, the packed word of R49.
-/

namespace Sys2Proof

/-! ### Fields -/

/-- CMD.op, bits 2:0 of the control byte (R59). -/
def operationOf (ctrl : Byte) : Operation := ctrl.extractLsb' 0 3

/-- CMD.n, bits 7:3 of the control byte (R59). -/
def countOf (ctrl : Byte) : Count := ctrl.extractLsb' 3 5

/-- The selector, bits 31:28 of a packed word (R49). -/
def selectorOf (w : Word) : Selector := w.extractLsb' 28 4

/-- The payload, bits 27:0 of a packed word (R49). -/
def payloadOf (w : Word) : Payload := w.extractLsb' 0 28

/-- `CMD_CTRL = (n << 3) | op` (R59). -/
def controlByte (n : Count) (op : Operation) : Byte :=
  n.setWidth 8 <<< 3 ||| op.setWidth 8

/-- The word with selector `k` in bits 31:28 and payload `p` in bits 27:0 (R49). -/
def packedWord (k : Selector) (p : Payload) : Word := k.setWidth 32 <<< 28 ||| p.setWidth 32

/-! ### Decoding -/

/-- Why the decoder gives no instruction. Every packed word is valid (R56), so only a command can be
rejected. -/
inductive Reject where
  /-- The operation code is one of 100 to 111 (R61). -/
  | illegalOperation (op : Operation)
deriving DecidableEq, Repr

/-- The operation codes of R60 and, for the reserved ones, R61. -/
def decodeCommand (c : Command) : Except Reject Instr :=
  match (operationOf c.ctrl).toNat with
  | 0 => .ok (.validate (countOf c.ctrl) c.lanes)
  | 1 => .ok (.pack (countOf c.ctrl) c.lanes)
  | 2 => .ok (.select (countOf c.ctrl) c.lanes)
  | 3 => .ok (.unpack (countOf c.ctrl) c.word)
  | _ => .error (.illegalOperation (operationOf c.ctrl))

/-- The word's constructor for each selector, in selector order (R49, R64 to R79). -/
def wordForms : Vector (Payload → Instr) 16 :=
  #v[.wordLayout0, .wordLayout1, .wordLayout2, .wordLayout3,
     .wordLayout4, .wordLayout5, .wordLayout6, .wordLayout7,
     .wordLayout8, .wordLayout9, .wordLayout10, .wordLayout11,
     .wordLayout12, .wordLayout13, .wordLayout14, .wordLayout15]

/-- The word of selector `k` as an instruction. A selector is 0 to 15, so the access is in range (R63). -/
def wordForm (k : Selector) (p : Payload) : Instr := wordForms[k.toNat] p

/-- A packed word by its selector; every word is valid (R56). -/
def decodeWord (w : Word) : Instr := wordForm (selectorOf w) (payloadOf w)

/-- The instruction on the block's input. -/
def decode : Input → Except Reject Instr
  | .command c => decodeCommand c
  | .packed w => .ok (decodeWord w)

/-! ### Encoding -/

/-- Lanes that all hold 0, written where an instruction has no lanes. -/
def zeroLanes : Lanes := Vector.replicate 28 0#64

/-- The input that stands for an instruction (R59, R60, R49). Fields the command does not read
(CMD.word of VALIDATE, PACK, SELECT; the lanes of UNPACK) are written 0 (log 7). -/
def encode : Instr → Input
  | .validate n lanes => .command ⟨controlByte n 0b000#3, lanes, 0#32⟩
  | .pack n lanes => .command ⟨controlByte n 0b001#3, lanes, 0#32⟩
  | .select n lanes => .command ⟨controlByte n 0b010#3, lanes, 0#32⟩
  | .unpack n word => .command ⟨controlByte n 0b011#3, zeroLanes, word⟩
  | .wordLayout0 p => .packed (packedWord 0#4 p)
  | .wordLayout1 p => .packed (packedWord 1#4 p)
  | .wordLayout2 p => .packed (packedWord 2#4 p)
  | .wordLayout3 p => .packed (packedWord 3#4 p)
  | .wordLayout4 p => .packed (packedWord 4#4 p)
  | .wordLayout5 p => .packed (packedWord 5#4 p)
  | .wordLayout6 p => .packed (packedWord 6#4 p)
  | .wordLayout7 p => .packed (packedWord 7#4 p)
  | .wordLayout8 p => .packed (packedWord 8#4 p)
  | .wordLayout9 p => .packed (packedWord 9#4 p)
  | .wordLayout10 p => .packed (packedWord 10#4 p)
  | .wordLayout11 p => .packed (packedWord 11#4 p)
  | .wordLayout12 p => .packed (packedWord 12#4 p)
  | .wordLayout13 p => .packed (packedWord 13#4 p)
  | .wordLayout14 p => .packed (packedWord 14#4 p)
  | .wordLayout15 p => .packed (packedWord 15#4 p)

/-! ### The opcode table's numbering -/

/-- The input of an opcode-table row whose bits are `w`: a row of up to 8 bits (CMD_CTRL8) is a control
byte with its lanes and word zero, a wider one (WORD32) is a packed word. The block's ports carry
values, not bytes, so no byte order enters (R37). -/
def tableInput (nbits w : Nat) : Input :=
  if nbits ≤ 8 then .command ⟨BitVec.ofNat 8 w, zeroLanes, 0#32⟩ else .packed (BitVec.ofNat 32 w)

/-- What the decoder reads from an opcode-table row's bits. -/
def decodeTableWord (nbits w : Nat) : Option Instr :=
  match decode (tableInput nbits w) with
  | .ok i => some i
  | .error _ => none

end Sys2Proof
end

