-- ==== Sys2Proof/Machine/Layouts.lean ====
section
/-!
DEFINITION. The layout ROM (10_state.md R16): the 16 layouts of 30_encoding.md R64 to R79, constant,
with the slot widths and offsets of R50 to R52.
-/

namespace Sys2Proof.Machine

/-- A layout: its slot count (R50) and the widths of its slots in slot order (R51). Width entries at
or beyond the count are not held (log 18). -/
structure Layout where
  count : Nat
  widths : List Nat
deriving DecidableEq, Repr

/-- `LT[s].width[j]` (R51). -/
def Layout.width (l : Layout) (j : Nat) : Nat := l.widths.getD j 0

/-- `LT[s].off[j]`, the sum of the widths of the slots before `j` (R52). -/
def Layout.off (l : Layout) (j : Nat) : Nat := (l.widths.take j).sum

/-- The layout table, row by row as R64 to R79 give it; the group written first in the source's table
holds the lower-numbered slots (R53; log 13). -/
def layoutTable : Vector Layout 16 :=
  #v[⟨28, List.replicate 28 1⟩,
     ⟨21, List.replicate 7 2 ++ List.replicate 14 1⟩,
     ⟨21, List.replicate 7 1 ++ List.replicate 7 2 ++ List.replicate 7 1⟩,
     ⟨21, List.replicate 14 1 ++ List.replicate 7 2⟩,
     ⟨14, List.replicate 14 2⟩,
     ⟨9, [4, 3, 3, 3, 3, 3, 3, 3, 3]⟩,
     ⟨8, [3, 4, 4, 4, 4, 3, 3, 3]⟩,
     ⟨7, List.replicate 7 4⟩,
     ⟨6, [5, 5, 5, 5, 4, 4]⟩,
     ⟨6, [4, 4, 5, 5, 5, 5]⟩,
     ⟨5, [6, 6, 6, 5, 5]⟩,
     ⟨5, [5, 5, 6, 6, 6]⟩,
     ⟨4, List.replicate 4 7⟩,
     ⟨3, [10, 9, 9]⟩,
     ⟨2, [14, 14]⟩,
     ⟨1, [28]⟩]

/-- `LT[s]` (R50). A selector is 0 to 15, so the access is in range (R63). -/
def layoutAt (k : Selector) : Layout := layoutTable[k.toNat]

/-- The selectors in the order the packer tries them (R86). -/
def selectors : List Selector := (List.range 16).map (BitVec.ofNat 4)

/-- MAX_VALUE, the largest value a slot can hold (R10). -/
def maxValue : Nat := 2 ^ 28 - 1

end Sys2Proof.Machine
end

