-- ==== Sys2Proof/Machine/Operands.lean ====
section
/-!
DEFINITION. The operands of the window commands: the value of a lane, and the tests on the count and
on the window that VALIDATE, PACK and SELECT make (30_encoding.md R62; 60_exceptions.md R122).
-/

namespace Sys2Proof.Machine

/-- `CMD.lane[j]` as an unsigned value (R20). Every rule uses `j < 28` (R63). -/
def laneValue (lanes : Lanes) (j : Nat) : Nat := if h : j < 28 then lanes[j].toNat else 0

/-- Some lane `j < n` holds a value above MAX_VALUE, compared in full (R81, R82). -/
def outOfRange (lanes : Lanes) (n : Nat) : Bool :=
  (List.range n).any fun j => decide (laneValue lanes j > maxValue)

/-- The first test of every window command: counts 29 to 31 name no lanes (R62, R122). -/
def countTooLarge (n : Count) : Bool := decide (n.toNat > 28)

end Sys2Proof.Machine
end

