-- ==== Sys2Proof/Machine/Packer.lean ====
section
/-!
DEFINITION. The packer's three functions, 41_pack_select.md R85 to R87, on exact naturals (R13).
-/

namespace Sys2Proof.Machine

/-- `Fits(s, lane, n)` (R85): the first `min(count, n)` lanes, each against its own slot's width. -/
def fits (l : Layout) (lanes : Lanes) (n : Nat) : Bool :=
  (List.range (min l.count n)).all fun j => decide (laneValue lanes j < 2 ^ l.width j)

/-- `Select(lane, n)` (R86): the first selector in table order whose layout fits. -/
def selectLayout (lanes : Lanes) (n : Nat) : Option Selector :=
  selectors.find? fun k => fits (layoutAt k) lanes n

/-- The winning layout's count `c = min(LT[s].count, n)` (R86). -/
def consumedCount (k : Selector) (n : Nat) : Nat := min (layoutAt k).count n

/-- `Insert(s, lane, c)` (R87): each value shifted to its slot's offset, ORed onto the selector. -/
def insertSlots (k : Selector) (lanes : Lanes) (c : Nat) : Word :=
  BitVec.ofNat 32 ((List.range c).foldl
    (fun acc j => acc ||| (laneValue lanes j <<< (layoutAt k).off j)) (k.toNat <<< 28))

/-- The tests PACK and SELECT make, in the order of R122: BadCount, EmptyWindow, NoFit; else the
selected layout (R88, R89). -/
def chooseLayout (n : Count) (lanes : Lanes) : Except Status Selector :=
  if countTooLarge n then .error .badCount
  else if n.toNat = 0 then .error .emptyWindow
  else match selectLayout lanes n.toNat with
    | none => .error .noFit
    | some k => .ok k

end Sys2Proof.Machine
end

