-- ==== Sys2Proof/Machine/PackSelect.lean ====
section
/-!
DEFINITION. PACK and SELECT (41_pack_select.md R88, R89).
-/

namespace Sys2Proof.Machine

/-- PACK (R88). -/
def execPack (n : Count) (lanes : Lanes) (s : State) : Host.Outcome State Fault Refusal :=
  .next <|
    match chooseLayout n lanes with
    | .error e => s.raiseStatus e
    | .ok k => s.completeOk
        { sel := k
          count := BitVec.ofNat 5 (consumedCount k n.toNat)
          word := insertSlots k lanes (consumedCount k n.toNat) }

/-- SELECT (R89): as PACK, and the packed bits are never formed. -/
def execSelect (n : Count) (lanes : Lanes) (s : State) : Host.Outcome State Fault Refusal :=
  .next <|
    match chooseLayout n lanes with
    | .error e => s.raiseStatus e
    | .ok k => s.completeOk
        { sel := k
          count := BitVec.ofNat 5 (consumedCount k n.toNat) }

end Sys2Proof.Machine
end

