-- ==== Sys2Proof/Machine/Extractor.lean ====
section
/-!
DEFINITION. The extractor, 42_unpack.md R97, and what it writes for one word (R98).
-/

namespace Sys2Proof.Machine

/-- `Extract(w, s, j)` (R97). -/
def extractSlot (w : Word) (l : Layout) (j : Nat) : Word :=
  BitVec.ofNat 32 ((w.toNat >>> l.off j) &&& (2 ^ l.width j - 1))

/-- The result registers for word `w` under layout `k`: its slots in order, 0 in the lanes beyond the
slot count, the selector and the slot count (R98). -/
def extractAll (k : Selector) (w : Word) : Results where
  sel := k
  count := BitVec.ofNat 5 (layoutAt k).count
  lane := Vector.ofFn fun j =>
    if j.val < (layoutAt k).count then extractSlot w (layoutAt k) j.val else 0#32

end Sys2Proof.Machine
end

