-- ==== Sys2Proof/Machine/Unpack.lean ====
section
/-!
DEFINITION. UNPACK (42_unpack.md R98) and the packed word in each of its 16 layouts (30_encoding.md
R64 to R79), which presented on its own is run as the extraction of that word (log 6).
-/

namespace Sys2Proof.Machine

/-- UNPACK (R98): the layout is the one the word's own selector names; `n` is ignored (R62). -/
def execUnpack (_n : Count) (word : Word) (s : State) : Host.Outcome State Fault Refusal :=
  .next (s.completeOk (extractAll (selectorOf word) word))

/-- WORD_LAYOUT0 (R64, R98): 28 slots of 1 bit. -/
def execWordLayout0 (p : Payload) (s : State) : Host.Outcome State Fault Refusal :=
  .next (s.completeOk (extractAll 0#4 (packedWord 0#4 p)))

/-- WORD_LAYOUT1 (R65, R98): 7 slots of 2 bits, then 14 of 1. -/
def execWordLayout1 (p : Payload) (s : State) : Host.Outcome State Fault Refusal :=
  .next (s.completeOk (extractAll 1#4 (packedWord 1#4 p)))

/-- WORD_LAYOUT2 (R66, R98): 7 slots of 1 bit, 7 of 2, 7 of 1. -/
def execWordLayout2 (p : Payload) (s : State) : Host.Outcome State Fault Refusal :=
  .next (s.completeOk (extractAll 2#4 (packedWord 2#4 p)))

/-- WORD_LAYOUT3 (R67, R98): 14 slots of 1 bit, then 7 of 2. -/
def execWordLayout3 (p : Payload) (s : State) : Host.Outcome State Fault Refusal :=
  .next (s.completeOk (extractAll 3#4 (packedWord 3#4 p)))

/-- WORD_LAYOUT4 (R68, R98): 14 slots of 2 bits. -/
def execWordLayout4 (p : Payload) (s : State) : Host.Outcome State Fault Refusal :=
  .next (s.completeOk (extractAll 4#4 (packedWord 4#4 p)))

/-- WORD_LAYOUT5 (R69, R98): one slot of 4 bits, then 8 of 3. -/
def execWordLayout5 (p : Payload) (s : State) : Host.Outcome State Fault Refusal :=
  .next (s.completeOk (extractAll 5#4 (packedWord 5#4 p)))

/-- WORD_LAYOUT6 (R70, R98): one slot of 3 bits, 4 of 4, 3 of 3. -/
def execWordLayout6 (p : Payload) (s : State) : Host.Outcome State Fault Refusal :=
  .next (s.completeOk (extractAll 6#4 (packedWord 6#4 p)))

/-- WORD_LAYOUT7 (R71, R98): 7 slots of 4 bits. -/
def execWordLayout7 (p : Payload) (s : State) : Host.Outcome State Fault Refusal :=
  .next (s.completeOk (extractAll 7#4 (packedWord 7#4 p)))

/-- WORD_LAYOUT8 (R72, R98): 4 slots of 5 bits, then 2 of 4. -/
def execWordLayout8 (p : Payload) (s : State) : Host.Outcome State Fault Refusal :=
  .next (s.completeOk (extractAll 8#4 (packedWord 8#4 p)))

/-- WORD_LAYOUT9 (R73, R98): 2 slots of 4 bits, then 4 of 5. -/
def execWordLayout9 (p : Payload) (s : State) : Host.Outcome State Fault Refusal :=
  .next (s.completeOk (extractAll 9#4 (packedWord 9#4 p)))

/-- WORD_LAYOUT10 (R74, R98): 3 slots of 6 bits, then 2 of 5. -/
def execWordLayout10 (p : Payload) (s : State) : Host.Outcome State Fault Refusal :=
  .next (s.completeOk (extractAll 10#4 (packedWord 10#4 p)))

/-- WORD_LAYOUT11 (R75, R98): 2 slots of 5 bits, then 3 of 6. -/
def execWordLayout11 (p : Payload) (s : State) : Host.Outcome State Fault Refusal :=
  .next (s.completeOk (extractAll 11#4 (packedWord 11#4 p)))

/-- WORD_LAYOUT12 (R76, R98): 4 slots of 7 bits. -/
def execWordLayout12 (p : Payload) (s : State) : Host.Outcome State Fault Refusal :=
  .next (s.completeOk (extractAll 12#4 (packedWord 12#4 p)))

/-- WORD_LAYOUT13 (R77, R98): slots of 10, 9 and 9 bits. -/
def execWordLayout13 (p : Payload) (s : State) : Host.Outcome State Fault Refusal :=
  .next (s.completeOk (extractAll 13#4 (packedWord 13#4 p)))

/-- WORD_LAYOUT14 (R78, R98): 2 slots of 14 bits. -/
def execWordLayout14 (p : Payload) (s : State) : Host.Outcome State Fault Refusal :=
  .next (s.completeOk (extractAll 14#4 (packedWord 14#4 p)))

/-- WORD_LAYOUT15 (R79, R98): one slot of 28 bits. -/
def execWordLayout15 (p : Payload) (s : State) : Host.Outcome State Fault Refusal :=
  .next (s.completeOk (extractAll 15#4 (packedWord 15#4 p)))

end Sys2Proof.Machine
end

