-- ==== Sys2Proof/Machine/Validate.lean ====
section
/-!
DEFINITION. VALIDATE, the range validator (40_validate.md).
-/

namespace Sys2Proof.Machine

/-- VALIDATE (R81). -/
def execValidate (n : Count) (lanes : Lanes) (s : State) : Host.Outcome State Fault Refusal :=
  .next <|
    if countTooLarge n then s.raiseStatus .badCount
    else if outOfRange lanes n.toNat then s.raiseStatus .valueOutOfRange
    else s.completeOk {}

end Sys2Proof.Machine
end

