-- ==== Sys2Proof/Machine/Dispatch.lean ====
section
/-!
DEFINITION. One arm per instruction: its meaning.
-/

namespace Sys2Proof.Machine

/-- The meaning of an instruction. -/
def exec (i : Instr) (s : State) : Host.Outcome State Fault Refusal :=
  match i with
  | .validate n lanes => Sys2Proof.Machine.execValidate n lanes s
  | .pack n lanes => Sys2Proof.Machine.execPack n lanes s
  | .select n lanes => Sys2Proof.Machine.execSelect n lanes s
  | .unpack n word => Sys2Proof.Machine.execUnpack n word s
  | .wordLayout0 payload => Sys2Proof.Machine.execWordLayout0 payload s
  | .wordLayout1 payload => Sys2Proof.Machine.execWordLayout1 payload s
  | .wordLayout2 payload => Sys2Proof.Machine.execWordLayout2 payload s
  | .wordLayout3 payload => Sys2Proof.Machine.execWordLayout3 payload s
  | .wordLayout4 payload => Sys2Proof.Machine.execWordLayout4 payload s
  | .wordLayout5 payload => Sys2Proof.Machine.execWordLayout5 payload s
  | .wordLayout6 payload => Sys2Proof.Machine.execWordLayout6 payload s
  | .wordLayout7 payload => Sys2Proof.Machine.execWordLayout7 payload s
  | .wordLayout8 payload => Sys2Proof.Machine.execWordLayout8 payload s
  | .wordLayout9 payload => Sys2Proof.Machine.execWordLayout9 payload s
  | .wordLayout10 payload => Sys2Proof.Machine.execWordLayout10 payload s
  | .wordLayout11 payload => Sys2Proof.Machine.execWordLayout11 payload s
  | .wordLayout12 payload => Sys2Proof.Machine.execWordLayout12 payload s
  | .wordLayout13 payload => Sys2Proof.Machine.execWordLayout13 payload s
  | .wordLayout14 payload => Sys2Proof.Machine.execWordLayout14 payload s
  | .wordLayout15 payload => Sys2Proof.Machine.execWordLayout15 payload s

end Sys2Proof.Machine
end

