-- ==== Sys2Proof/Machine/Issue.lean ====
section
/-!
DEFINITION. What the block does with one host action: a presented input is decoded and executed, a
reserved operation completes with IllegalCommand (30_encoding.md R61), a read is answered or faults
(10_state.md R29), a reset resets (R132).
-/

namespace Sys2Proof.Machine

/-- The completion of a command the decoder rejects (R61, R119). -/
def execReject (e : Reject) (s : State) : Host.Outcome State Fault Refusal :=
  match e with
  | .illegalOperation _ => .next (s.raiseStatus .illegalCommand)

/-- A presented input, with the host's other actions in `s`: decoded, and executed where a block of
this IN_W can be given it (R8, R20; log 3). -/
def runInput (x : Input) (s : State) : Host.Outcome State Fault Refusal :=
  match decode x with
  | .error e => execReject e s
  | .ok i => if i.wellFormed s.inW then exec i s else .refused .laneTooWide

/-- One host action, taken from the state that holds the ones after it. A read leaves the state as it
is (R42); the value it gives the host is `hostRead`'s (log 8). -/
def runAction (a : HostAction) (s : State) : Host.Outcome State Fault Refusal :=
  match a with
  | .present x => runInput x s
  | .read r => match hostRead r s with
    | .next _ => .next s
    | .fault f => .fault f
    | .refused r => .refused r
  | .reset => .next s.applyReset

end Sys2Proof.Machine
end

