-- ==== Sys2Proof/Machine/Step.lean ====
section
/-!
DEFINITION. One step: the host's next action, and the block's answer to it (20_memory.md R43). The
block fetches nothing (10_state.md R31): its next instruction is the next input the host presents.
-/

namespace Sys2Proof.Machine

/-- One step. Where the host does nothing, nothing changes: a value written stays until the next
command completes or the block is reset (R22; log 4). -/
def step (s : State) : Host.Outcome State Fault Refusal :=
  match s.input with
  | [] => .next s
  | a :: rest => runAction a { s with input := rest }

/-- `s` with an opcode-table row's input presented next (log 5). -/
def State.withFetchWord (s : State) (nbits w : Nat) : State := s.present (tableInput nbits w)

end Sys2Proof.Machine
end

