-- ==== Sys2Proof/Machine/Stream.lean ====
section
/-!
DEFINITION. The host's side: byte order (20_memory.md R36, R38) and the stream operations COMPRESS,
CALC_SIZE and DECOMPRESS, each a sequence of commands issued one at a time through the step, the
results read before the next command (43_stream_operations.md R102 to R109; 70_reset_and_hazards.md
R136). What the host holds (the input, the cursor, the buffer) is argument and result here and no
state of the block (10_state.md R15, R31; log 10).
-/

namespace Sys2Proof.Machine

/-! ### Sequencing -/

/-- Go on with `f` where `o` answers; stop where it stops. -/
def andThen {α β : Type} (o : Host.Outcome α Fault Refusal)
    (f : α → Host.Outcome β Fault Refusal) : Host.Outcome β Fault Refusal :=
  match o with
  | .next a => f a
  | .fault r => .fault r
  | .refused r => .refused r

/-- The host presents an instruction's input and the block takes it (R43). -/
def issue (i : Instr) (s : State) : Host.Outcome State Fault Refusal := step (s.present (encode i))

/-! ### Byte order -/

/-- `LE4(w)`, the four bytes of a word, least significant first (R36; log 12). -/
def le4 (w : Word) : List Byte :=
  [w.extractLsb' 0 8, w.extractLsb' 8 8, w.extractLsb' 16 8, w.extractLsb' 24 8]

/-- `MemRead(addr, 4)`, the word in bytes `addr .. addr + 3`, least significant first (R36). -/
def memRead (bytes : List Byte) (addr : Nat) : Word :=
  bytes.getD (addr + 3) 0#8 ++ bytes.getD (addr + 2) 0#8 ++ bytes.getD (addr + 1) 0#8
    ++ bytes.getD addr 0#8

/-! ### Windows -/

/-- `n = min(28, N - k)` (R103, R104, R106). -/
def windowCount (values : List Lane) (k : Nat) : Count := BitVec.ofNat 5 (min 28 (values.length - k))

/-- The lanes `values[k], values[k+1], ...`; lanes past the input's end are written 0, and no command
reads them (R94; log 16). -/
def windowLanes (values : List Lane) (k : Nat) : Lanes :=
  Vector.ofFn fun j => values.getD (k + j.val) 0#64

/-! ### Outcomes -/

/-- The source's two error kinds (R124). -/
inductive StreamError where
  | valueOutOfRange
  | alignmentError
deriving DecidableEq, Repr

/-- What COMPRESS leaves: its answer, the caller's buffer, the block. -/
structure CompressEnd where
  answer : Except StreamError Unit
  out : List Byte
  block : State
deriving DecidableEq, Repr

/-- What CALC_SIZE leaves: its answer, and the block. It has no buffer (R106). -/
structure SizeEnd where
  answer : Except StreamError Nat
  block : State
deriving DecidableEq, Repr

/-- What DECOMPRESS leaves: its answer, the caller's buffer, the block. -/
structure DecompressEnd where
  answer : Except StreamError Unit
  out : List Word
  block : State
deriving DecidableEq, Repr

/-! ### Phase 1, validation -/

/-- The loop of R103 from cursor `k`: one VALIDATE for each window of 28 values, and a stop
only on ValueOutOfRange (log 17). -/
def validateLoop (values : List Lane) :
    Nat → Nat → State → Host.Outcome (Except StreamError Unit × State) Fault Refusal
  | 0, k, s => if k < values.length then .fault .streamLoopBound else .next (.ok (), s)
  | fuel + 1, k, s =>
    if k < values.length then
      andThen (issue (.validate (windowCount values k) (windowLanes values k)) s) fun s1 =>
      andThen (hostRead .status s1) fun status =>
      if status = Status.valueOutOfRange.code.setWidth 32 then .next (.error .valueOutOfRange, s1)
      else validateLoop values fuel (k + 28) s1
    else .next (.ok (), s)

/-- Phase 1 (R103): for IN_W of 8 or 16 validation is a no-op and no command is issued. -/
def validatePhase (values : List Lane) (s : State) :
    Host.Outcome (Except StreamError Unit × State) Fault Refusal :=
  match s.inW with
  | .w8 => .next (.ok (), s)
  | .w16 => .next (.ok (), s)
  | .w32 => validateLoop values values.length 0 s
  | .w64 => validateLoop values values.length 0 s

/-! ### COMPRESS -/

/-- The loop of R104 from cursor `k` with buffer `out`. -/
def packLoop (values : List Lane) :
    Nat → Nat → List Byte → State → Host.Outcome (List Byte × State) Fault Refusal
  | 0, k, out, s => if k < values.length then .fault .streamLoopBound else .next (out, s)
  | fuel + 1, k, out, s =>
    if k < values.length then
      andThen (issue (.pack (windowCount values k) (windowLanes values k)) s) fun s1 =>
      andThen (hostRead .word s1) fun w =>
      andThen (hostRead .count s1) fun c =>
      packLoop values fuel (k + c.toNat) (out ++ le4 w) s1
    else .next (out, s)

/-- COMPRESS (R103, R104). On failure the old buffer stays at the front and the bytes after it are a
free value, a new one each time (R105; log 9). -/
def compress (values : List Lane) (out : List Byte) (s : State) :
    Host.Outcome CompressEnd Fault Refusal :=
  andThen (validatePhase values s) fun (answer, s1) =>
  match answer with
  | .error e => .next
      { answer := .error e
        out := out ++ Config.compressFailTail s1.draws
        block := { s1 with draws := s1.draws + 1 } }
  | .ok () =>
    andThen (packLoop values values.length 0 out s1) fun (out1, s2) =>
    .next { answer := .ok (), out := out1, block := s2 }

/-! ### CALC_SIZE -/

/-- The loop of R106 from cursor `k` with `size` bytes counted. -/
def sizeLoop (values : List Lane) :
    Nat → Nat → Nat → State → Host.Outcome (Nat × State) Fault Refusal
  | 0, k, size, s => if k < values.length then .fault .streamLoopBound else .next (size, s)
  | fuel + 1, k, size, s =>
    if k < values.length then
      andThen (issue (.select (windowCount values k) (windowLanes values k)) s) fun s1 =>
      andThen (hostRead .count s1) fun c =>
      sizeLoop values fuel (k + c.toNat) (size + 4) s1
    else .next (size, s)

/-- CALC_SIZE (R106). -/
def calcSize (values : List Lane) (s : State) : Host.Outcome SizeEnd Fault Refusal :=
  andThen (validatePhase values s) fun (answer, s1) =>
  match answer with
  | .error e => .next { answer := .error e, block := s1 }
  | .ok () =>
    andThen (sizeLoop values values.length 0 0 s1) fun (size, s2) =>
    .next { answer := .ok size, block := s2 }

/-! ### DECOMPRESS -/

/-- The host reads `RES.lane[j], ..., RES.lane[j + c - 1]` in order (R108). -/
def readLanes (s : State) : Nat → Nat → Host.Outcome (List Word) Fault Refusal
  | 0, _ => .next []
  | c + 1, j =>
    andThen (hostRead (.lane (Fin.ofNat 28 j)) s) fun v =>
    andThen (readLanes s c (j + 1)) fun vs =>
    .next (v :: vs)

/-- The loop of R108: `m` more words, from word `q`. -/
def unpackLoop (bytes : List Byte) :
    Nat → Nat → List Word → State → Host.Outcome (List Word × State) Fault Refusal
  | 0, _, out, s => .next (out, s)
  | m + 1, q, out, s =>
    andThen (issue (.unpack 0#5 (memRead bytes (4 * q))) s) fun s1 =>
    andThen (hostRead .count s1) fun c =>
    andThen (readLanes s1 c.toNat 0) fun vs =>
    unpackLoop bytes m (q + 1) (out ++ vs) s1

/-- DECOMPRESS (R107, R108, R109). -/
def decompress (bytes : List Byte) (out : List Word) (s : State) :
    Host.Outcome DecompressEnd Fault Refusal :=
  if bytes.length % 4 ≠ 0 then .next { answer := .error .alignmentError, out := out, block := s }
  else
    andThen (unpackLoop bytes (bytes.length / 4) 0 out s) fun (out1, s1) =>
    .next { answer := .ok (), out := out1, block := s1 }

end Sys2Proof.Machine
end

