-- ==== Sys2Proof/Safety.lean ====
section
/-!
DEFINITION. What claims are stated with: a step that goes on, the invariant of the result registers
(10_state.md R22 to R28), the rest of the state, a window's fit and a word's slots (R57, R85).
-/

namespace Sys2Proof.Machine

/-- A step that goes on. -/
def goesOn (o : Host.Outcome State Fault Refusal) : Bool :=
  match o with
  | .next _ => true
  | .fault _ => false
  | .refused _ => false

/-- Every data register reads 0, as after VALIDATE or an error (R26 to R28, R119). -/
def State.dataCleared (s : State) : Prop :=
  s.sel = 0#4 ∧ s.count = 0#5 ∧ s.word = 0#32 ∧ ∀ j : Fin 28, s.lane[j] = 0#32

/-- What the result registers hold once a command has completed: legal values (R22, R24, R25), data
only after a normal completion (R26 to R28), at most the layout's slot count of values, lanes beyond
RES.count at 0 and each lane within its slot (R25, R27), and a packed word only with its own selector
in bits 31:28 and no lanes (R28, R96). -/
structure State.LegalResults (s : State) : Prop where
  status_legal : s.status.toNat ≤ 5
  error_clears : s.status ≠ 0#3 → s.dataCleared
  count_bound : s.count.toNat ≤ (layoutAt s.sel).count
  lane_fits : ∀ j : Fin 28, s.lane[j].toNat < 2 ^ (layoutAt s.sel).width j.val
  lane_beyond : ∀ j : Fin 28, s.count.toNat ≤ j.val → s.lane[j] = 0#32
  word_selector : s.word ≠ 0#32 →
    s.word.extractLsb' 28 4 = s.sel ∧ ∀ j : Fin 28, s.lane[j] = 0#32

/-- The invariant: while RES.valid = 1 the result registers hold what a completion leaves (R23). -/
def State.Inv (s : State) : Prop := s.valid = true → s.LegalResults

/-- The result registers, all of them (R22). -/
def State.sameResults (s t : State) : Prop :=
  s.valid = t.valid ∧ s.status = t.status ∧ s.sel = t.sel ∧ s.count = t.count ∧ s.word = t.word
    ∧ s.lane = t.lane

/-- Everything that is not a result register: IN_W, what the host does next, the draws made. -/
def State.sameOutside (s t : State) : Prop :=
  s.inW = t.inW ∧ s.input = t.input ∧ s.draws = t.draws

/-- A normal completion (R120). -/
def State.completedOk (t : State) : Prop := t.valid = true ∧ t.status = 0#3

/-- An error completion with a code: every data register 0 (R119). -/
def State.completedError (t : State) (code : BitVec 3) : Prop :=
  t.valid = true ∧ t.status = code ∧ t.dataCleared

/-- Layout `k` fits the window `lanes[0 .. n-1]` (R85), as a statement about the lanes themselves. -/
def windowFits (k : Selector) (lanes : Lanes) (n : Nat) : Prop :=
  ∀ j : Fin 28, j.val < min (layoutAt k).count n → lanes[j].toNat < 2 ^ (layoutAt k).width j.val

/-- Layout `k` is the first in table order that fits (R86, R92). -/
def firstFit (k : Selector) (lanes : Lanes) (n : Nat) : Prop :=
  windowFits k lanes n ∧ ∀ k' : Selector, k'.toNat < k.toNat → ¬ windowFits k' lanes n

/-- The number in bits `off + width - 1 : off` of slot `j` of a word under layout `k` (R52, R57). -/
def slotNumber (w : Word) (k : Selector) (j : Nat) : Nat :=
  w.toNat / 2 ^ (layoutAt k).off j % 2 ^ (layoutAt k).width j

/-- The state after the slots of a word of layout `k` have been read into the result lanes: `c` of them,
slot `j` the number `slot j`, 0 in every lane beyond (R98). -/
def State.holdsSlots (t : State) (k : Selector) (c : Nat) (slot : Nat → Nat) : Prop :=
  t.completedOk ∧ t.sel = k ∧ t.count.toNat = c ∧ t.word = 0#32
    ∧ ∀ j : Fin 28, t.lane[j].toNat = if j.val < c then slot j.val else 0

/-- Values a block of input width `w` can be given (R8, R20). -/
def fitDomain (w : InputWidth) (values : List Lane) : Prop := ∀ v ∈ values, v.toNat < 2 ^ w.bits

/-- Values the format can hold (R10, R82). -/
def representable (values : List Lane) : Prop := ∀ v ∈ values, v.toNat ≤ 268435455

end Sys2Proof.Machine
end

