-- ==== Sys2Proof/Certificates/Slice0/Obligations.lean ====
section
/-!
DEFINITION. The statements for the provers. Each says what a numbered rule of spec/ says; numbers in
them are written out rather than taken from the model where the rule writes them out.
-/

open Sys2Proof Sys2Proof.Machine

/-! ### Reset, the result registers, the step -/

/-- R29, R132: a reset leaves RES.valid at 0, answers every other host read with the model's fault, and
keeps IN_W and what the host does next. The faults are the spec's own words (R29, item U1); that the
host's later actions stay is the model's choice (log 14). -/
def Obligations.ResetInvalidatesResults : Prop :=
  ∀ (s : State) (rest : List HostAction), s.input = .reset :: rest →
    ∃ t, step s = .next t ∧ t.valid = false ∧ t.inW = s.inW ∧ t.input = rest ∧ t.draws = s.draws
      ∧ hostRead .valid t = .next 0#32
      ∧ ∀ r : ResultReg, r ≠ .valid → hostRead r t = .fault (.readBeforeCommand r)

/-- R23: RES.valid is 0 at reset, 1 after every completion, stays 1 but for a reset, stays 0 until a
command completes; the other registers answer a host exactly while it is 1. That a packed word presented
on its own completes like a command is the model's choice (log 6). -/
def Obligations.ValidFromFirstCompletion : Prop :=
  (∀ w : InputWidth, (State.resetOf w).valid = false)
  ∧ (∀ (i : Instr) (s : State), ∃ t, exec i s = .next t ∧ t.valid = true)
  ∧ (∀ s t : State, step s = .next t →
      (∀ x rest, s.input = .present x :: rest → t.valid = true)
      ∧ (∀ rest, s.input = .reset :: rest → t.valid = false)
      ∧ ((∀ x rest, s.input ≠ .present x :: rest) → (∀ rest, s.input ≠ .reset :: rest) →
          t.valid = s.valid))
  ∧ (∀ (s : State) (r : ResultReg), r ≠ .valid →
      ((∃ v, hostRead r s = .next v) ↔ s.valid = true))

/-- R22, R42: a host read gives the register's content, zero-extended, and changes nothing but that the
read is done. Zero extension to 32 bits is the model's choice (log 19). -/
def Obligations.ReadsGiveRegistersAndChangeNothing : Prop :=
  ∀ s : State, s.valid = true →
    (∃ v, hostRead .status s = .next v ∧ v.toNat = s.status.toNat)
    ∧ (∃ v, hostRead .sel s = .next v ∧ v.toNat = s.sel.toNat)
    ∧ (∃ v, hostRead .count s = .next v ∧ v.toNat = s.count.toNat)
    ∧ hostRead .word s = .next s.word
    ∧ (∀ j : Fin 28, hostRead (.lane j) s = .next s.lane[j])
    ∧ hostRead .valid s = .next 1#32
    ∧ ∀ (r : ResultReg) (rest : List HostAction), s.input = .read r :: rest →
        step s = .next { s with input := rest }

/-- R18, R43: when the block's input decodes to an instruction that a block of this IN_W can be given,
the step is the meaning of that instruction, with the host's later actions left to do. That the host's
actions stand in a list is the model's choice (log 4), and so is a packed word as an input (log 6). -/
def Obligations.StepRunsDecodedInstruction : Prop :=
  ∀ (s : State) (x : Input) (rest : List HostAction) (i : Instr),
    s.input = .present x :: rest → decode x = .ok i → i.wellFormed s.inW = true →
    step s = exec i { s with input := rest }

/-- R43: a step takes exactly the host's next action; no step changes IN_W (R15), and no step draws a
free value. R22: a value written stays until the next command completes or the block is reset, so a step
that presents nothing and resets nothing leaves every result register, and where the host does nothing the
step answers the very same state. The list of actions, and the step with an empty list, are the model's
choice (log 4); so is the count of draws (log 9). -/
def Obligations.StepTakesOneActionInOrder : Prop :=
  (∀ s t : State, step s = .next t →
    t.input = s.input.tail ∧ t.inW = s.inW ∧ t.draws = s.draws
    ∧ ((∀ x rest, s.input ≠ .present x :: rest) → (∀ rest, s.input ≠ .reset :: rest) →
        s.sameResults t))
  ∧ ∀ s : State, s.input = [] → step s = .next s

/-- R20, and the model's choice (log 3): a step is refused only where the host presents a VALIDATE, PACK
or SELECT with a lane value that an IN_W-bit lane cannot hold. -/
def Obligations.StepRefusesOnlyTooWideLanes : Prop :=
  ∀ (s : State) (r : Refusal), step s = .refused r ↔
    r = .laneTooWide ∧ ∃ x rest i, s.input = .present x :: rest ∧ decode x = .ok i
      ∧ i.wellFormed s.inW = false

/-- R29, item U1: a step faults exactly where the host reads a result register other than RES.valid
while RES.valid = 0. -/
def Obligations.StepFaultsOnlyOnEarlyRead : Prop :=
  ∀ (s : State) (f : Fault), step s = .fault f ↔
    ∃ r rest, s.input = .read r :: rest ∧ s.valid = false ∧ r ≠ .valid ∧ f = .readBeforeCommand r

/-- R17: what a command leaves in the result registers, and whether it completes, depends on the
command and IN_W alone. That a packed word presented on its own is run like a command is the model's
choice (log 6). -/
def Obligations.CompletionIgnoresEarlierState : Prop :=
  ∀ (s₁ s₂ t₁ : State) (x : Input) (rest₁ rest₂ : List HostAction),
    s₁.input = .present x :: rest₁ → s₂.input = .present x :: rest₂ → s₁.inW = s₂.inW →
    step s₁ = .next t₁ → ∃ t₂, step s₂ = .next t₂ ∧ t₁.sameResults t₂

/-- R42: presenting the same command again gives the same results. That a packed word presented on its
own is run like a command is the model's choice (log 6). -/
def Obligations.CommandsAreIdempotent : Prop :=
  ∀ (s t : State) (x : Input) (rest : List HostAction),
    s.input = .present x :: .present x :: rest → step s = .next t →
    ∃ u, step t = .next u ∧ t.sameResults u

/-- R22 to R28: at reset, with any IN_W, the invariant of the result registers holds. -/
def Obligations.InvariantHoldsAtReset : Prop :=
  State.reset.Inv ∧ ∀ w : InputWidth, (State.resetOf w).Inv

/-- R22 to R28, R96: every step keeps the invariant of the result registers: legal status codes, data
only after a normal completion, no more values than the layout has slots, each within its slot, a
packed word only with its own selector. -/
def Obligations.EveryStepKeepsResultsLegal : Prop :=
  ∀ s t : State, s.Inv → step s = .next t → t.Inv

/-! ### Encoding -/

/-- R49, R59, R60: decoding the encoding of an instruction gives the instruction, with every operand. -/
def Obligations.DecodeInvertsEncode : Prop :=
  ∀ i : Instr, decode (encode i) = .ok i

/-- R49, R59, R60: the encoding of a decoded input agrees with that input in the control byte and in
every field the command reads, and for a packed word in every bit. -/
def Obligations.EncodeInvertsDecode : Prop :=
  (∀ (w : Word) (i : Instr), decode (.packed w) = .ok i → encode i = .packed w)
  ∧ ∀ (c : Command) (i : Instr), decode (.command c) = .ok i →
      ∃ c', encode i = .command c' ∧ c'.ctrl = c.ctrl
        ∧ (c.ctrl.toNat % 8 ≤ 2 → c'.lanes = c.lanes)
        ∧ (c.ctrl.toNat % 8 = 3 → c'.word = c.word)

/-- R59, R60: bits 2:0 of the control byte name the operation and bits 7:3 are n. -/
def Obligations.ControlByteNamesOperation : Prop :=
  ∀ c : Command,
    (c.ctrl.toNat % 8 = 0 →
      decode (.command c) = .ok (.validate (BitVec.ofNat 5 (c.ctrl.toNat / 8)) c.lanes))
    ∧ (c.ctrl.toNat % 8 = 1 →
      decode (.command c) = .ok (.pack (BitVec.ofNat 5 (c.ctrl.toNat / 8)) c.lanes))
    ∧ (c.ctrl.toNat % 8 = 2 →
      decode (.command c) = .ok (.select (BitVec.ofNat 5 (c.ctrl.toNat / 8)) c.lanes))
    ∧ (c.ctrl.toNat % 8 = 3 →
      decode (.command c) = .ok (.unpack (BitVec.ofNat 5 (c.ctrl.toNat / 8)) c.word))

/-- R59, R60, R80, R49: a few encodings written out decode to what they stand for. -/
def Obligations.WrittenOutWordsDecode : Prop :=
  decodeTableWord 8 0xE0 = some (.validate 28#5 zeroLanes)
  ∧ decodeTableWord 8 0x39 = some (.pack 7#5 zeroLanes)
  ∧ decodeTableWord 8 0x12 = some (.select 2#5 zeroLanes)
  ∧ decodeTableWord 8 0x03 = some (.unpack 0#5 0#32)
  ∧ decodeTableWord 8 0x04 = none
  ∧ decodeTableWord 32 0xCC648281 = some (.wordLayout12 0xC648281#28)
  ∧ decodeTableWord 32 0x00001080 = some (.wordLayout0 0x1080#28)
  ∧ decodeTableWord 32 0xF00007E7 = some (.wordLayout15 0x7E7#28)

/-- R54: the layout table's invariants. -/
def Obligations.LayoutTableInvariants : Prop :=
  (∀ k : Selector, (layoutAt k).widths.length = (layoutAt k).count ∧ (layoutAt k).widths.sum = 28)
  ∧ selectors.map (fun k => (layoutAt k).count)
      = [28, 21, 21, 21, 14, 9, 8, 7, 6, 6, 5, 5, 4, 3, 2, 1]
  ∧ (∀ k k' : Selector, k.toNat ≤ k'.toNat → (layoutAt k').count ≤ (layoutAt k).count)
  ∧ (∀ k : Selector, (∃ j : Fin 28, j.val < (layoutAt k).count ∧ (layoutAt k).width j.val = 28)
      ↔ k = 15#4)
  ∧ selectors.getLast? = some 15#4

/-- R55: for each selector the slots cover every payload bit exactly once. -/
def Obligations.SlotsCoverPayloadOnce : Prop :=
  ∀ (k : Selector) (b : Fin 28), ∃! j : Fin 28, j.val < (layoutAt k).count
    ∧ (layoutAt k).off j.val ≤ b.val ∧ b.val < (layoutAt k).off j.val + (layoutAt k).width j.val

/-- R61: a command with operation code 100 to 111 completes with IllegalCommand, whatever its other
fields hold, and has no other effect; no other code is rejected. -/
def Obligations.ReservedOperationIsIllegal : Prop :=
  (∀ (s : State) (c : Command) (rest : List HostAction),
    s.input = .present (.command c) :: rest → 4 ≤ c.ctrl.toNat % 8 →
    ∃ t, step s = .next t ∧ t.completedError 5#3
      ∧ t.inW = s.inW ∧ t.input = rest ∧ t.draws = s.draws)
  ∧ ∀ c : Command, (∃ e, decode (.command c) = .error e) ↔ 4 ≤ c.ctrl.toNat % 8

/-- R62: the count field: 29 to 31 is BadCount, 0 is EmptyWindow for PACK and SELECT and a legal empty
window for VALIDATE, 0 to 28 is never BadCount, and UNPACK ignores it and is encoded with 0. -/
def Obligations.CountFieldMeaning : Prop :=
  (∀ (n : Count) (lanes : Lanes) (s : State), 29 ≤ n.toNat →
    (∃ t, exec (.validate n lanes) s = .next t ∧ t.completedError 4#3)
    ∧ (∃ t, exec (.pack n lanes) s = .next t ∧ t.completedError 4#3)
    ∧ (∃ t, exec (.select n lanes) s = .next t ∧ t.completedError 4#3))
  ∧ (∀ (n : Count) (lanes : Lanes) (s : State), n.toNat ≤ 28 →
    (∃ t, exec (.validate n lanes) s = .next t ∧ t.status ≠ 4#3)
    ∧ (∃ t, exec (.pack n lanes) s = .next t ∧ t.status ≠ 4#3)
    ∧ (∃ t, exec (.select n lanes) s = .next t ∧ t.status ≠ 4#3))
  ∧ (∀ (lanes : Lanes) (s : State),
    (∃ t, exec (.pack 0#5 lanes) s = .next t ∧ t.completedError 3#3)
    ∧ (∃ t, exec (.select 0#5 lanes) s = .next t ∧ t.completedError 3#3)
    ∧ (∃ t, exec (.validate 0#5 lanes) s = .next t ∧ t.completedOk))
  ∧ (∀ (n m : Count) (w : Word) (s : State), exec (.unpack n w) s = exec (.unpack m w) s)
  ∧ ∀ w : Word, ∃ c, encode (.unpack 0#5 w) = .command c ∧ c.ctrl = 0b00000011#8

/-! ### VALIDATE -/

/-- R81: VALIDATE, every case: the normal completion, ValueOutOfRange, BadCount, and the encoding. -/
def Obligations.ValidateChecksWindow : Prop :=
  (∀ (n : Count) (lanes : Lanes) (s : State), n.toNat ≤ 28 →
    (∀ j : Fin 28, j.val < n.toNat → lanes[j].toNat ≤ 268435455) →
    ∃ t, exec (.validate n lanes) s = .next t ∧ t.completedOk ∧ t.dataCleared ∧ s.sameOutside t)
  ∧ (∀ (n : Count) (lanes : Lanes) (s : State), n.toNat ≤ 28 →
    (∃ j : Fin 28, j.val < n.toNat ∧ 268435455 < lanes[j].toNat) →
    ∃ t, exec (.validate n lanes) s = .next t ∧ t.completedError 1#3 ∧ s.sameOutside t)
  ∧ (∀ (n : Count) (lanes : Lanes) (s : State), 28 < n.toNat →
    ∃ t, exec (.validate n lanes) s = .next t ∧ t.completedError 4#3 ∧ s.sameOutside t)
  ∧ ∀ (n : Count) (lanes : Lanes), ∃ c, encode (.validate n lanes) = .command c
      ∧ c.ctrl.toNat = n.toNat * 8 ∧ c.lanes = lanes

/-- R83: a block with IN_W of 8 or 16 never answers VALIDATE with ValueOutOfRange, and a VALIDATE
changes nothing but the result registers. -/
def Obligations.NarrowValidateNeverOutOfRange : Prop :=
  ∀ (n : Count) (lanes : Lanes) (s : State), s.inW = .w8 ∨ s.inW = .w16 →
    (Instr.validate n lanes).wellFormed s.inW = true →
    ∃ t, exec (.validate n lanes) s = .next t ∧ t.status ≠ 1#3 ∧ s.sameOutside t
      ∧ (n.toNat ≤ 28 → t.completedOk)

/-- R84: a window of one value or more that passes VALIDATE has a representable first value, is fit by
layout 15, and makes PACK and SELECT complete normally. -/
def Obligations.ValidatedWindowAlwaysFits : Prop :=
  ∀ (n : Count) (lanes : Lanes) (s t s' : State), 1 ≤ n.toNat →
    exec (.validate n lanes) s = .next t → t.status = 0#3 →
    lanes[0].toNat ≤ 268435455 ∧ windowFits 15#4 lanes n.toNat
    ∧ (∃ p, exec (.pack n lanes) s' = .next p ∧ p.completedOk)
    ∧ (∃ q, exec (.select n lanes) s' = .next q ∧ q.completedOk)

/-! ### PACK and SELECT -/

/-- R88: PACK, every case: the first layout in table order that fits, its count, each value in its own
slot with 0 in the unfilled ones and the selector on top; NoFit, EmptyWindow, BadCount; the encoding. -/
def Obligations.PackPacksFirstFit : Prop :=
  (∀ (n : Count) (lanes : Lanes) (s : State), 1 ≤ n.toNat → n.toNat ≤ 28 →
    lanes[0].toNat ≤ 268435455 →
    ∃ t, exec (.pack n lanes) s = .next t ∧ t.completedOk ∧ s.sameOutside t
      ∧ firstFit t.sel lanes n.toNat
      ∧ t.count.toNat = min (layoutAt t.sel).count n.toNat
      ∧ t.word.toNat / 2 ^ 28 = t.sel.toNat
      ∧ (∀ j : Fin 28, j.val < (layoutAt t.sel).count →
          slotNumber t.word t.sel j.val = if j.val < t.count.toNat then lanes[j].toNat else 0)
      ∧ ∀ j : Fin 28, t.lane[j] = 0#32)
  ∧ (∀ (n : Count) (lanes : Lanes) (s : State), 1 ≤ n.toNat → n.toNat ≤ 28 →
    268435455 < lanes[0].toNat →
    ∃ t, exec (.pack n lanes) s = .next t ∧ t.completedError 2#3 ∧ s.sameOutside t)
  ∧ (∀ (n : Count) (lanes : Lanes) (s : State), n.toNat = 0 →
    ∃ t, exec (.pack n lanes) s = .next t ∧ t.completedError 3#3 ∧ s.sameOutside t)
  ∧ (∀ (n : Count) (lanes : Lanes) (s : State), 28 < n.toNat →
    ∃ t, exec (.pack n lanes) s = .next t ∧ t.completedError 4#3 ∧ s.sameOutside t)
  ∧ ∀ (n : Count) (lanes : Lanes), ∃ c, encode (.pack n lanes) = .command c
      ∧ c.ctrl.toNat = n.toNat * 8 + 1 ∧ c.lanes = lanes

/-- R89: SELECT, every case: the same choice as PACK, the count, and RES.word 0. -/
def Obligations.SelectCountsFirstFit : Prop :=
  (∀ (n : Count) (lanes : Lanes) (s : State), 1 ≤ n.toNat → n.toNat ≤ 28 →
    lanes[0].toNat ≤ 268435455 →
    ∃ t, exec (.select n lanes) s = .next t ∧ t.completedOk ∧ s.sameOutside t
      ∧ firstFit t.sel lanes n.toNat
      ∧ t.count.toNat = min (layoutAt t.sel).count n.toNat
      ∧ t.word = 0#32
      ∧ ∀ j : Fin 28, t.lane[j] = 0#32)
  ∧ (∀ (n : Count) (lanes : Lanes) (s : State), 1 ≤ n.toNat → n.toNat ≤ 28 →
    268435455 < lanes[0].toNat →
    ∃ t, exec (.select n lanes) s = .next t ∧ t.completedError 2#3 ∧ s.sameOutside t)
  ∧ (∀ (n : Count) (lanes : Lanes) (s : State), n.toNat = 0 →
    ∃ t, exec (.select n lanes) s = .next t ∧ t.completedError 3#3 ∧ s.sameOutside t)
  ∧ (∀ (n : Count) (lanes : Lanes) (s : State), 28 < n.toNat →
    ∃ t, exec (.select n lanes) s = .next t ∧ t.completedError 4#3 ∧ s.sameOutside t)
  ∧ ∀ (n : Count) (lanes : Lanes), ∃ c, encode (.select n lanes) = .command c
      ∧ c.ctrl.toNat = n.toNat * 8 + 2 ∧ c.lanes = lanes

/-- R90: for a window of one value or more the selection, of 16 tries, finds a layout exactly when the
first value is representable. -/
def Obligations.SelectionFindsRepresentable : Prop :=
  selectors.length = 16
  ∧ ∀ (lanes : Lanes) (n : Nat), 1 ≤ n →
      ((∃ k, selectLayout lanes n = some k) ↔ lanes[0].toNat ≤ 268435455)

/-- R91: after a normal PACK fewer values than slots are taken exactly when the window is shorter than
the chosen layout; then every valid lane is taken and the unfilled slots hold 0. -/
def Obligations.PartlyFilledOnlyWhenWindowShort : Prop :=
  ∀ (n : Count) (lanes : Lanes) (s t : State), exec (.pack n lanes) s = .next t → t.status = 0#3 →
    (t.count.toNat < (layoutAt t.sel).count ↔ n.toNat < (layoutAt t.sel).count)
    ∧ (t.count.toNat < (layoutAt t.sel).count → t.count = n)
    ∧ ∀ j : Fin 28, t.count.toNat ≤ j.val → j.val < (layoutAt t.sel).count →
        slotNumber t.word t.sel j.val = 0

/-- R93: PACK and SELECT of the same window reach the same completion, and on normal completion the same
RES.sel and RES.count; they differ only in RES.word. -/
def Obligations.PackAndSelectAgree : Prop :=
  ∀ (n : Count) (lanes : Lanes) (s : State), ∃ p q,
    exec (.pack n lanes) s = .next p ∧ exec (.select n lanes) s = .next q
    ∧ p.status = q.status ∧ p.sel = q.sel ∧ p.count = q.count ∧ p.lane = q.lane ∧ p.valid = q.valid
    ∧ p.sameOutside q ∧ q.word = 0#32

/-- R94: lanes at or beyond n change no result of VALIDATE, PACK or SELECT. -/
def Obligations.LanesBeyondCountUnread : Prop :=
  ∀ (n : Count) (lanes lanes' : Lanes) (s : State),
    (∀ j : Fin 28, j.val < n.toNat → lanes[j] = lanes'[j]) →
    exec (.validate n lanes) s = exec (.validate n lanes') s
    ∧ exec (.pack n lanes) s = exec (.pack n lanes') s
    ∧ exec (.select n lanes) s = exec (.select n lanes') s

/-- R96: the word a normal PACK writes is its selector times 2^28 plus each value times the weight of its
slot, so that no bit is lost or carried; the selector stands in bits 31:28, each value in its own slot,
and the slots lie inside bits 27:0. -/
def Obligations.PackedWordLosesNoBit : Prop :=
  ∀ (n : Count) (lanes : Lanes) (s t : State), exec (.pack n lanes) s = .next t → t.status = 0#3 →
    t.word.toNat = t.sel.toNat * 2 ^ 28
      + ((List.finRange 28).map fun j : Fin 28 =>
          if j.val < t.count.toNat then lanes[j].toNat * 2 ^ (layoutAt t.sel).off j.val else 0).sum
    ∧ t.word.extractLsb' 28 4 = t.sel
    ∧ (∀ j : Fin 28, j.val < t.count.toNat →
        slotNumber t.word t.sel j.val = lanes[j].toNat
        ∧ lanes[j].toNat * 2 ^ (layoutAt t.sel).off j.val < 2 ^ 28)
    ∧ ∀ i j : Fin 28, i.val < j.val → j.val < t.count.toNat →
        (layoutAt t.sel).off i.val + (layoutAt t.sel).width i.val ≤ (layoutAt t.sel).off j.val

/-! ### UNPACK and the packed words -/

/-- R98: UNPACK: the selector and slot count of the word's layout, every slot's number in slot order and
0 in the lanes beyond, RES.word 0, always a normal completion; the encoding. -/
def Obligations.UnpackReadsEverySlot : Prop :=
  (∀ (n : Count) (w : Word) (s : State), ∃ t, exec (.unpack n w) s = .next t ∧ s.sameOutside t
    ∧ t.sel.toNat = w.toNat / 2 ^ 28
    ∧ t.holdsSlots t.sel (layoutAt t.sel).count (slotNumber w t.sel))
  ∧ ∀ (n : Count) (w : Word), ∃ c, encode (.unpack n w) = .command c
      ∧ c.ctrl.toNat = n.toNat * 8 + 3 ∧ c.word = w

/-- R64 to R67, R98: a packed word of layouts 0 to 3, slot by slot at the bits the rules list. That a word
presented on its own runs as its extraction is the model's choice (log 6). That in layouts 1, 2 and 3
the group written first holds the lower slots and the lower bits is what R65 to R67 list and what R53 marks
as the spec's own reading of the source's table (N11; log 13). -/
def Obligations.WordLayouts0To3ReadTheirSlots : Prop :=
  ∀ (p : Payload) (s : State),
    (∃ t, exec (.wordLayout0 p) s = .next t ∧ s.sameOutside t
      ∧ t.holdsSlots 0#4 28 fun j => p.toNat / 2 ^ j % 2)
    ∧ (∃ t, exec (.wordLayout1 p) s = .next t ∧ s.sameOutside t
      ∧ t.holdsSlots 1#4 21 fun j =>
          if j < 7 then p.toNat / 2 ^ (2 * j) % 4 else p.toNat / 2 ^ (14 + (j - 7)) % 2)
    ∧ (∃ t, exec (.wordLayout2 p) s = .next t ∧ s.sameOutside t
      ∧ t.holdsSlots 2#4 21 fun j =>
          if j < 7 then p.toNat / 2 ^ j % 2
          else if j < 14 then p.toNat / 2 ^ (7 + 2 * (j - 7)) % 4
          else p.toNat / 2 ^ (21 + (j - 14)) % 2)
    ∧ (∃ t, exec (.wordLayout3 p) s = .next t ∧ s.sameOutside t
      ∧ t.holdsSlots 3#4 21 fun j =>
          if j < 14 then p.toNat / 2 ^ j % 2 else p.toNat / 2 ^ (14 + 2 * (j - 14)) % 4)

/-- R68 to R71, R98: a packed word of layouts 4 to 7, slot by slot at the bits the rules list. That a word
presented on its own runs as its extraction is the model's choice (log 6). -/
def Obligations.WordLayouts4To7ReadTheirSlots : Prop :=
  ∀ (p : Payload) (s : State),
    (∃ t, exec (.wordLayout4 p) s = .next t ∧ s.sameOutside t
      ∧ t.holdsSlots 4#4 14 fun j => p.toNat / 2 ^ (2 * j) % 4)
    ∧ (∃ t, exec (.wordLayout5 p) s = .next t ∧ s.sameOutside t
      ∧ t.holdsSlots 5#4 9 fun j =>
          if j = 0 then p.toNat % 16 else p.toNat / 2 ^ (4 + 3 * (j - 1)) % 8)
    ∧ (∃ t, exec (.wordLayout6 p) s = .next t ∧ s.sameOutside t
      ∧ t.holdsSlots 6#4 8 fun j =>
          if j = 0 then p.toNat % 8
          else if j < 5 then p.toNat / 2 ^ (3 + 4 * (j - 1)) % 16
          else p.toNat / 2 ^ (19 + 3 * (j - 5)) % 8)
    ∧ (∃ t, exec (.wordLayout7 p) s = .next t ∧ s.sameOutside t
      ∧ t.holdsSlots 7#4 7 fun j => p.toNat / 2 ^ (4 * j) % 16)

/-- R72 to R75, R98: a packed word of layouts 8 to 11, slot by slot at the bits the rules list. That a word
presented on its own runs as its extraction is the model's choice (log 6). -/
def Obligations.WordLayouts8To11ReadTheirSlots : Prop :=
  ∀ (p : Payload) (s : State),
    (∃ t, exec (.wordLayout8 p) s = .next t ∧ s.sameOutside t
      ∧ t.holdsSlots 8#4 6 fun j =>
          if j < 4 then p.toNat / 2 ^ (5 * j) % 32 else p.toNat / 2 ^ (20 + 4 * (j - 4)) % 16)
    ∧ (∃ t, exec (.wordLayout9 p) s = .next t ∧ s.sameOutside t
      ∧ t.holdsSlots 9#4 6 fun j =>
          if j < 2 then p.toNat / 2 ^ (4 * j) % 16 else p.toNat / 2 ^ (8 + 5 * (j - 2)) % 32)
    ∧ (∃ t, exec (.wordLayout10 p) s = .next t ∧ s.sameOutside t
      ∧ t.holdsSlots 10#4 5 fun j =>
          if j < 3 then p.toNat / 2 ^ (6 * j) % 64 else p.toNat / 2 ^ (18 + 5 * (j - 3)) % 32)
    ∧ (∃ t, exec (.wordLayout11 p) s = .next t ∧ s.sameOutside t
      ∧ t.holdsSlots 11#4 5 fun j =>
          if j < 2 then p.toNat / 2 ^ (5 * j) % 32 else p.toNat / 2 ^ (10 + 6 * (j - 2)) % 64)

/-- R76 to R79, R98: a packed word of layouts 12 to 15, slot by slot at the bits the rules list. That a word
presented on its own runs as its extraction is the model's choice (log 6). -/
def Obligations.WordLayouts12To15ReadTheirSlots : Prop :=
  ∀ (p : Payload) (s : State),
    (∃ t, exec (.wordLayout12 p) s = .next t ∧ s.sameOutside t
      ∧ t.holdsSlots 12#4 4 fun j => p.toNat / 2 ^ (7 * j) % 128)
    ∧ (∃ t, exec (.wordLayout13 p) s = .next t ∧ s.sameOutside t
      ∧ t.holdsSlots 13#4 3 fun j =>
          if j = 0 then p.toNat % 1024 else p.toNat / 2 ^ (10 + 9 * (j - 1)) % 512)
    ∧ (∃ t, exec (.wordLayout14 p) s = .next t ∧ s.sameOutside t
      ∧ t.holdsSlots 14#4 2 fun j => p.toNat / 2 ^ (14 * j) % 16384)
    ∧ (∃ t, exec (.wordLayout15 p) s = .next t ∧ s.sameOutside t
      ∧ t.holdsSlots 15#4 1 fun _ => p.toNat)

/-- R98, and the model's choice to run a packed word presented on its own as its extraction (log 6):
UNPACK of a word does what that word's own opcode-table row does. -/
def Obligations.UnpackRunsItsWord : Prop :=
  ∀ (n : Count) (w : Word) (i : Instr) (s : State), decode (.packed w) = .ok i →
    exec (.unpack n w) s = exec i s

/-- R56, R99: every one of the 2^32 words decodes and completes normally with the layout of its selector,
to UNPACK or presented on its own, where that it runs as its extraction is the model's choice (log 6). -/
def Obligations.EveryWordCompletesNormally : Prop :=
  ∀ (w : Word) (x : Input) (s : State) (rest : List HostAction),
    x = .packed w ∨ (∃ n, x = encode (.unpack n w)) → s.input = .present x :: rest →
    ∃ t, step s = .next t ∧ t.completedOk ∧ t.sel.toNat = w.toNat / 2 ^ 28
      ∧ t.count.toNat = (layoutAt t.sel).count

/-- R100: UNPACK inverts PACK. -/
def Obligations.UnpackInvertsPack : Prop :=
  ∀ (n m : Count) (lanes : Lanes) (s s' p : State),
    exec (.pack n lanes) s = .next p → p.status = 0#3 →
    ∃ u, exec (.unpack m p.word) s' = .next u ∧ u.completedOk ∧ u.sel = p.sel
      ∧ u.count.toNat = (layoutAt p.sel).count
      ∧ ∀ j : Fin 28, u.lane[j].toNat = if j.val < p.count.toNat then lanes[j].toNat else 0

/-- R101: every value UNPACK writes is below two to its slot's width, which is at most 28, and bits 31:28
of every result lane are 0. -/
def Obligations.UnpackedValuesFitTheirSlots : Prop :=
  ∀ (n : Count) (w : Word) (s t : State), exec (.unpack n w) s = .next t →
    (∀ j : Fin 28, j.val < t.count.toNat → t.lane[j].toNat < 2 ^ (layoutAt t.sel).width j.val)
    ∧ (∀ j : Nat, (layoutAt t.sel).width j ≤ 28)
    ∧ ∀ j : Fin 28, t.lane[j].toNat ≤ 268435455 ∧ t.lane[j].extractLsb' 28 4 = 0#4

/-! ### Completions -/

/-- R119: whatever instruction completes in error, every data register is 0 and nothing but the result
registers changes. -/
def Obligations.ErrorsClearEveryDataRegister : Prop :=
  ∀ (i : Instr) (s t : State), exec i s = .next t →
    s.sameOutside t ∧ (t.status ≠ 0#3 → t.completedError t.status)

/-- R121: the completions each command reaches, and that it reaches each of them. -/
def Obligations.CompletionsEachCommandReaches : Prop :=
  (∀ c : BitVec 3, (∃ n lanes s t, exec (.validate n lanes) s = .next t ∧ t.status = c)
      ↔ c = 0#3 ∨ c = 1#3 ∨ c = 4#3)
  ∧ (∀ c : BitVec 3, (∃ n lanes s t, exec (.pack n lanes) s = .next t ∧ t.status = c)
      ↔ c = 0#3 ∨ c = 2#3 ∨ c = 3#3 ∨ c = 4#3)
  ∧ (∀ c : BitVec 3, (∃ n lanes s t, exec (.select n lanes) s = .next t ∧ t.status = c)
      ↔ c = 0#3 ∨ c = 2#3 ∨ c = 3#3 ∨ c = 4#3)
  ∧ (∀ c : BitVec 3, (∃ n w s t, exec (.unpack n w) s = .next t ∧ t.status = c) ↔ c = 0#3)
  ∧ ∀ c : BitVec 3, (∃ cmd s rest t, 4 ≤ cmd.ctrl.toNat % 8
      ∧ s.input = .present (.command cmd) :: rest ∧ step s = .next t ∧ t.status = c) ↔ c = 5#3

/-- R122: the priority of errors: IllegalCommand, BadCount, EmptyWindow, then ValueOutOfRange (VALIDATE)
or NoFit (PACK, SELECT), on the control byte as presented. -/
def Obligations.ErrorPriority : Prop :=
  ∀ (s : State) (c : Command) (rest : List HostAction),
    s.input = .present (.command c) :: rest → c.lanes.fitWidth s.inW = true →
    ∃ t, step s = .next t ∧ t.valid = true
      ∧ t.status =
        (if 4 ≤ c.ctrl.toNat % 8 then 5#3
        else if c.ctrl.toNat % 8 = 3 then 0#3
        else if 29 ≤ c.ctrl.toNat / 8 then 4#3
        else if c.ctrl.toNat % 8 = 0 then
          if ∃ j : Fin 28, j.val < c.ctrl.toNat / 8 ∧ 268435455 < c.lanes[j].toNat then 1#3 else 0#3
        else if c.ctrl.toNat / 8 = 0 then 3#3
        else if 268435455 < c.lanes[0].toNat then 2#3
        else 0#3)

/-! ### Streams -/

/-- R36: a word's four bytes, least significant first, the selector in the high nibble of the last; and
reading them back anywhere in a byte sequence. R36 marks the byte-by-byte reading of "little-endian" as
from general knowledge (item G1, log 12). -/
def Obligations.WordsAreLittleEndian : Prop :=
  (∀ w : Word, (le4 w).map BitVec.toNat
      = [w.toNat % 256, w.toNat / 256 % 256, w.toNat / 65536 % 256, w.toNat / 16777216])
  ∧ (∀ (w : Word) (before after : List Byte), memRead (before ++ le4 w ++ after) before.length = w)
  ∧ (∀ b0 b1 b2 b3 : Byte, (memRead [b0, b1, b2, b3] 0).toNat
      = b0.toNat + b1.toNat * 256 + b2.toNat * 65536 + b3.toNat * 16777216)
  ∧ ∀ w : Word, ∃ b0 b1 b2 b3, le4 w = [b0, b1, b2, b3] ∧ b3.toNat / 16 = w.toNat / 2 ^ 28

/-- R110: the empty input. -/
def Obligations.EmptyStreams : Prop :=
  ∀ (s : State) (bytes : List Byte) (out : List Word),
    compress [] bytes s = .next { answer := .ok (), out := bytes, block := s }
    ∧ calcSize [] s = .next { answer := .ok 0, block := s }
    ∧ decompress [] out s = .next { answer := .ok (), out := out, block := s }

/-- R114: with IN_W of 32 or 64, COMPRESS answers ValueOutOfRange exactly when some value exceeds
268,435,455. -/
def Obligations.CompressRejectsExactlyTooLarge : Prop :=
  ∀ (values : List Lane) (out : List Byte) (s : State), s.inW = .w32 ∨ s.inW = .w64 →
    fitDomain s.inW values →
    ∃ e, compress values out s = .next e
      ∧ (e.answer = .error .valueOutOfRange ↔ ∃ v ∈ values, 268435455 < v.toNat)
      ∧ (e.answer = .ok () ↔ representable values)

/-- R105: when COMPRESS fails, the bytes the buffer held stay at its front; nothing is said of the rest,
a free value (log 9). -/
def Obligations.FailedCompressKeepsOldBytes : Prop :=
  ∀ (values : List Lane) (out : List Byte) (s : State), s.inW = .w32 ∨ s.inW = .w64 →
    fitDomain s.inW values → (∃ v ∈ values, 268435455 < v.toNat) →
    ∃ e, compress values out s = .next e ∧ e.answer = .error .valueOutOfRange ∧ out <+: e.out
      ∧ e.block.completedError 1#3

/-- R115: with IN_W of 8 or 16, COMPRESS and CALC_SIZE never fail. -/
def Obligations.NarrowStreamsNeverFail : Prop :=
  ∀ (values : List Lane) (out : List Byte) (s : State), s.inW = .w8 ∨ s.inW = .w16 →
    fitDomain s.inW values →
    (∃ e, compress values out s = .next e ∧ e.answer = .ok ())
    ∧ ∃ z n, calcSize values s = .next z ∧ z.answer = .ok n

/-- R38, R104: on success COMPRESS appends to the caller's buffer the bytes it appends to an empty one. -/
def Obligations.CompressOnlyAppends : Prop :=
  ∀ (values : List Lane) (out : List Byte) (s : State), fitDomain s.inW values →
    representable values →
    ∃ e₀ e, compress values [] s = .next e₀ ∧ compress values out s = .next e
      ∧ e₀.answer = .ok () ∧ e.answer = .ok () ∧ e.out = out ++ e₀.out ∧ e.block = e₀.block
      ∧ e₀.out.length % 4 = 0

/-- R111: round trip: what COMPRESS appends, DECOMPRESS gives back, followed by zeros. -/
def Obligations.StreamRoundTrip : Prop :=
  ∀ (values : List Lane) (s s' : State), fitDomain s.inW values → representable values →
    ∃ e d p, compress values [] s = .next e ∧ e.answer = .ok ()
      ∧ decompress e.out [] s' = .next d ∧ d.answer = .ok ()
      ∧ d.out = values.map (fun v => v.setWidth 32) ++ List.replicate p 0#32

/-- R112: size coherence: CALC_SIZE answers the number of bytes COMPRESS appends, and both fail
together. -/
def Obligations.SizeCoherence : Prop :=
  ∀ (values : List Lane) (s s' : State), fitDomain s.inW values → s'.inW = s.inW →
    ∃ e z, compress values [] s = .next e ∧ calcSize values s' = .next z
      ∧ (e.answer = .ok () → z.answer = .ok e.out.length)
      ∧ (e.answer ≠ .ok () →
          e.answer = .error .valueOutOfRange ∧ z.answer = .error .valueOutOfRange)
      ∧ (e.answer = .ok () ↔ representable values)

/-- R113: the padding: decoding an encoded stream gives the values, as 32-bit numbers, and then fewer zeros
than the last word has slots. -/
def Obligations.PaddingBelowLastSlotCount : Prop :=
  ∀ (values : List Lane) (s s' : State), values ≠ [] → fitDomain s.inW values →
    representable values →
    ∃ e d p, compress values [] s = .next e ∧ decompress e.out [] s' = .next d
      ∧ d.out.length = values.length + p
      ∧ p < (layoutAt (selectorOf (memRead e.out (e.out.length - 4)))).count
      ∧ d.out.take values.length = values.map (fun v => v.setWidth 32)
      ∧ d.out.drop values.length = List.replicate p 0#32

/-- R116: zeros: 28 or more zeros encode as four zero bytes for each 28 of them, rounded up. -/
def Obligations.ZerosPackDensely : Prop :=
  ∀ (n : Nat) (s : State), 28 ≤ n →
    ∃ e, compress (List.replicate n 0#64) [] s = .next e ∧ e.answer = .ok ()
      ∧ e.out = List.replicate (4 * ((n + 27) / 28)) 0#8

/-- R117: the single largest value. -/
def Obligations.SingleMaximumValue : Prop :=
  ∀ s : State, s.inW = .w32 ∨ s.inW = .w64 →
    ∃ e, compress [268435455#64] [] s = .next e ∧ e.answer = .ok ()
      ∧ e.out = [0xFF#8, 0xFF#8, 0xFF#8, 0xFF#8] ∧ memRead e.out 0 = 0xFFFFFFFF#32
      ∧ e.block.sel = 15#4

/-- R107: a byte sequence whose length is not a multiple of 4 is rejected whole and nothing is appended. -/
def Obligations.MisalignedStreamRejectedWhole : Prop :=
  ∀ (bytes : List Byte) (out : List Word) (s : State), bytes.length % 4 ≠ 0 →
    decompress bytes out s = .next { answer := .error .alignmentError, out := out, block := s }

/-- R108, R109: any aligned byte sequence decodes: for each word in stream order, its layout's count of
values in slot order, appended to the caller's buffer. -/
def Obligations.AlignedStreamAlwaysDecodes : Prop :=
  ∀ (bytes : List Byte) (out : List Word) (s : State), bytes.length % 4 = 0 →
    ∃ e, decompress bytes out s = .next e ∧ e.answer = .ok ()
      ∧ e.out = out ++ (List.range (bytes.length / 4)).flatMap fun q =>
          (List.range (layoutAt (selectorOf (memRead bytes (4 * q)))).count).map fun j =>
            BitVec.ofNat 32
              (slotNumber (memRead bytes (4 * q)) (selectorOf (memRead bytes (4 * q))) j)

/-- R104, R92: the words COMPRESS appends, one at a time. With no value left it appends nothing. With values
left it appends the LE4 of the word that PACK writes for the window of the next `min(28, N)` values, in the
first layout in table order that fits, and goes on with the values after the PACK's own count of them, from
the block as that PACK left it. The order of a word's bytes is R36's, marked there as from general knowledge
(item G1, log 12). -/
def Obligations.CompressPacksGreedyWords : Prop :=
  (∀ (out : List Byte) (s : State),
    compress [] out s = .next { answer := .ok (), out := out, block := s })
  ∧ ∀ (values : List Lane) (out : List Byte) (s : State) (n : Count) (lanes : Lanes),
    values ≠ [] → fitDomain s.inW values → representable values →
    n.toNat = min 28 values.length →
    (∀ j : Fin 28, j.val < n.toNat → lanes[j] = values.getD j.val 0#64) →
    ∃ p, exec (.pack n lanes) s = .next p ∧ p.completedOk ∧ firstFit p.sel lanes n.toNat
      ∧ 1 ≤ p.count.toNat ∧ p.count.toNat ≤ values.length
      ∧ compress values out s = compress (values.drop p.count.toNat) (out ++ le4 p.word) p
      ∧ ∃ e, compress values out s = .next e ∧ e.answer = .ok ()
end

