-- ==== Sys2Proof/Laws/Decode.lean ====
section
/-!
SUPPORT. The fields of the two encodings: each reads back what was put in, and the fields of a byte
or a word put it together again (30_encoding.md R49, R59).
-/

namespace Sys2Proof

@[simp] theorem operationOf_controlByte (n : Count) (op : Operation) :
    operationOf (controlByte n op) = op := by
  apply BitVec.eq_of_getLsbD_eq
  intro i hi
  have h8 : i < 8 := by omega
  simp [operationOf, controlByte, hi, h8]

@[simp] theorem countOf_controlByte (n : Count) (op : Operation) :
    countOf (controlByte n op) = n := by
  apply BitVec.eq_of_getLsbD_eq
  intro i hi
  have h8 : 3 + i < 8 := by omega
  simp [countOf, controlByte, hi, h8]

theorem controlByte_fields (c : Byte) : controlByte (countOf c) (operationOf c) = c := by
  apply BitVec.eq_of_getLsbD_eq
  intro i hi
  by_cases h3 : i < 3
  · simp [controlByte, countOf, operationOf, hi, h3]
  · simp [controlByte, countOf, operationOf, hi, h3, show i - 3 < 5 by omega,
      show 3 + (i - 3) = i by omega]

@[simp] theorem selectorOf_packedWord (k : Selector) (p : Payload) :
    selectorOf (packedWord k p) = k := by
  apply BitVec.eq_of_getLsbD_eq
  intro i hi
  have h32 : 28 + i < 32 := by omega
  simp [selectorOf, packedWord, hi, h32]

@[simp] theorem payloadOf_packedWord (k : Selector) (p : Payload) :
    payloadOf (packedWord k p) = p := by
  apply BitVec.eq_of_getLsbD_eq
  intro i hi
  have h32 : i < 32 := by omega
  simp [payloadOf, packedWord, hi, h32]

theorem packedWord_fields (w : Word) : packedWord (selectorOf w) (payloadOf w) = w := by
  apply BitVec.eq_of_getLsbD_eq
  intro i hi
  by_cases h28 : i < 28
  · simp [packedWord, selectorOf, payloadOf, hi, h28]
  · simp [packedWord, selectorOf, payloadOf, hi, h28, show i - 28 < 4 by omega,
      show 28 + (i - 28) = i by omega]

/-- The decoder by the operation field, one lemma per code (R60). -/
theorem decodeCommand_validate (n : Count) (lanes : Lanes) (w : Word) :
    decodeCommand ⟨controlByte n 0b000#3, lanes, w⟩ = .ok (.validate n lanes) := by
  simp [decodeCommand]

theorem decodeCommand_pack (n : Count) (lanes : Lanes) (w : Word) :
    decodeCommand ⟨controlByte n 0b001#3, lanes, w⟩ = .ok (.pack n lanes) := by
  simp [decodeCommand]

theorem decodeCommand_select (n : Count) (lanes : Lanes) (w : Word) :
    decodeCommand ⟨controlByte n 0b010#3, lanes, w⟩ = .ok (.select n lanes) := by
  simp [decodeCommand]

theorem decodeCommand_unpack (n : Count) (lanes : Lanes) (w : Word) :
    decodeCommand ⟨controlByte n 0b011#3, lanes, w⟩ = .ok (.unpack n w) := by
  simp [decodeCommand]

/-- The decoder rejects exactly the reserved operation codes (R61). -/
theorem decodeCommand_error_iff (c : Command) (e : Reject) :
    decodeCommand c = .error e ↔
      4 ≤ (operationOf c.ctrl).toNat ∧ e = .illegalOperation (operationOf c.ctrl) := by
  have h8 := (operationOf c.ctrl).isLt
  unfold decodeCommand
  split <;> rename_i h <;> simp_all
  · constructor
    · rintro rfl
      refine ⟨?_, rfl⟩
      omega
    · rintro ⟨-, rfl⟩; rfl

/-- A command with one of the four operation codes of R60 decodes. -/
theorem decodeCommand_cases (c : Command) :
    ((operationOf c.ctrl).toNat = 0 ∧ decodeCommand c = .ok (.validate (countOf c.ctrl) c.lanes))
    ∨ ((operationOf c.ctrl).toNat = 1 ∧ decodeCommand c = .ok (.pack (countOf c.ctrl) c.lanes))
    ∨ ((operationOf c.ctrl).toNat = 2 ∧ decodeCommand c = .ok (.select (countOf c.ctrl) c.lanes))
    ∨ ((operationOf c.ctrl).toNat = 3 ∧ decodeCommand c = .ok (.unpack (countOf c.ctrl) c.word))
    ∨ (4 ≤ (operationOf c.ctrl).toNat
        ∧ decodeCommand c = .error (.illegalOperation (operationOf c.ctrl))) := by
  have h8 := (operationOf c.ctrl).isLt
  unfold decodeCommand
  split <;> rename_i h <;> simp_all
  omega

end Sys2Proof
end

