-- ==== Sys2Proof/Laws/Layouts.lean ====
section
/-!
SUPPORT. The layout table's arithmetic: counts, widths and offsets (30_encoding.md R50 to R55).
-/

namespace Sys2Proof.Machine

/-- A fact about every selector, checked on the table. -/
theorem forall_selector {P : Selector → Prop}
    (h : ∀ i : Fin 16, P (BitVec.ofFin i)) : ∀ k : Selector, P k := fun k => h k.toFin

theorem layout_count_le : ∀ k : Selector, (layoutAt k).count ≤ 28 :=
  forall_selector (by decide)

theorem layout_count_pos : ∀ k : Selector, 0 < (layoutAt k).count :=
  forall_selector (by decide)

theorem layout_widths_length : ∀ k : Selector, (layoutAt k).widths.length = (layoutAt k).count :=
  forall_selector (by decide)

theorem layout_widths_sum : ∀ k : Selector, (layoutAt k).widths.sum = 28 :=
  forall_selector (by decide)

theorem layout_width_zero_pos : ∀ k : Selector, 0 < (layoutAt k).width 0 :=
  forall_selector (by decide)

@[simp] theorem layout_off_zero (l : Layout) : l.off 0 = 0 := by simp [Layout.off]

/-- The next slot begins where this one ends (R52). -/
theorem layout_off_succ (k : Selector) {j : Nat} (h : j < (layoutAt k).count) :
    (layoutAt k).off (j + 1) = (layoutAt k).off j + (layoutAt k).width j := by
  rw [← layout_widths_length] at h
  have hd : (layoutAt k).widths.getD j 0 = (layoutAt k).widths[j] := by
    rw [List.getD_eq_getElem?_getD, List.getElem?_eq_getElem h, Option.getD_some]
  rw [Layout.off, Layout.off, Layout.width, hd, List.sum_take_succ _ _ h]

/-- Offsets rise with the slot. -/
theorem layout_off_mono (l : Layout) {i j : Nat} (h : i ≤ j) : l.off i ≤ l.off j := by
  unfold Layout.off
  obtain ⟨d, rfl⟩ := Nat.exists_eq_add_of_le h
  rw [List.take_add, List.sum_append]
  exact Nat.le_add_right _ _

/-- Every offset is within the payload (R55). -/
theorem layout_off_le (k : Selector) (j : Nat) : (layoutAt k).off j ≤ 28 := by
  rw [← layout_widths_sum k]
  conv_rhs => rw [← List.take_append_drop j (layoutAt k).widths, List.sum_append]
  exact Nat.le_add_right _ _

/-- A slot ends within the payload (R55). -/
theorem layout_slot_end_le (k : Selector) {j : Nat} (h : j < (layoutAt k).count) :
    (layoutAt k).off j + (layoutAt k).width j ≤ 28 := by
  rw [← layout_off_succ k h]
  exact layout_off_le k _

/-- A slot at or beyond the count has no width. -/
theorem layout_width_beyond (k : Selector) {j : Nat} (h : (layoutAt k).count ≤ j) :
    (layoutAt k).width j = 0 := by
  rw [← layout_widths_length] at h
  simp [Layout.width, List.getD_eq_getElem?_getD, List.getElem?_eq_none h]

theorem layout_width_le (k : Selector) (j : Nat) : (layoutAt k).width j ≤ 28 := by
  by_cases h : j < (layoutAt k).count
  · have := layout_slot_end_le k h; omega
  · rw [layout_width_beyond k (by omega)]; omega

@[simp] theorem layout_fifteen_count : (layoutAt 15#4).count = 1 := by decide

@[simp] theorem layout_fifteen_width : (layoutAt 15#4).width 0 = 28 := by decide

/-- The slot counts fit RES.count (R27). -/
theorem layout_count_toNat : ∀ k : Selector,
    (BitVec.ofNat 5 (layoutAt k).count).toNat = (layoutAt k).count :=
  forall_selector (by decide)

end Sys2Proof.Machine
end

