-- ==== Sys2Proof/Laws/Extractor.lean ====
section
/-!
SUPPORT. What extraction gives for one slot and for a whole word (42_unpack.md R97, R98, R101).
-/

namespace Sys2Proof.Machine

theorem slotNumber_lt (w : Word) (k : Selector) (j : Nat) :
    slotNumber w k j < 2 ^ (layoutAt k).width j :=
  Nat.mod_lt _ (Nat.two_pow_pos _)

/-- An extracted slot is the number in the slot's bits (R57, R97). -/
theorem extractSlot_toNat (w : Word) (k : Selector) (j : Nat) :
    (extractSlot w (layoutAt k) j).toNat = slotNumber w k j := by
  have h1 := slotNumber_lt w k j
  have h2 : 2 ^ (layoutAt k).width j ≤ 2 ^ 28 :=
    Nat.pow_le_pow_right (by omega) (layout_width_le k j)
  rw [extractSlot, BitVec.toNat_ofNat, Nat.and_two_pow_sub_one_eq_mod, Nat.shiftRight_eq_div_pow]
  exact Nat.mod_eq_of_lt (by unfold slotNumber at h1; omega)

section
variable (k : Selector) (w : Word)

@[simp] theorem extractAll_sel : (extractAll k w).sel = k := (rfl)
@[simp] theorem extractAll_word : (extractAll k w).word = 0#32 := (rfl)

@[simp] theorem extractAll_count : (extractAll k w).count.toNat = (layoutAt k).count :=
  layout_count_toNat k

/-- Each result lane after an extraction (R98). -/
theorem extractAll_lane (j : Fin 28) :
    (extractAll k w).lane[j].toNat = if j.val < (layoutAt k).count then slotNumber w k j.val else 0 := by
  have : (extractAll k w).lane[j]
      = if j.val < (layoutAt k).count then extractSlot w (layoutAt k) j.val else 0#32 := by
    simp [extractAll]
  rw [this]
  split
  · exact extractSlot_toNat w k j.val
  · rfl

end

end Sys2Proof.Machine
end

