-- ==== Sys2Proof/Laws/State.lean ====
section
/-!
SUPPORT. One lemma per field per update of the state, so that no proof unfolds a record update. The
proofs are written `(rfl)`, not `rfl`: a bare `rfl` would make simp use the lemma by definitional
unfolding alone, and simp could then not discharge a side goal such as `RES.valid = 1` with it.
-/

namespace Sys2Proof.Machine

section Complete
variable (s : State) (code : Status) (r : Results)

@[simp] theorem complete_valid : (s.complete code r).valid = true := (rfl)
@[simp] theorem complete_status : (s.complete code r).status = code.code := (rfl)
@[simp] theorem complete_sel : (s.complete code r).sel = r.sel := (rfl)
@[simp] theorem complete_count : (s.complete code r).count = r.count := (rfl)
@[simp] theorem complete_word : (s.complete code r).word = r.word := (rfl)
@[simp] theorem complete_lane : (s.complete code r).lane = r.lane := (rfl)
@[simp] theorem complete_inW : (s.complete code r).inW = s.inW := (rfl)
@[simp] theorem complete_input : (s.complete code r).input = s.input := (rfl)
@[simp] theorem complete_draws : (s.complete code r).draws = s.draws := (rfl)

@[simp] theorem completeOk_valid : (s.completeOk r).valid = true := (rfl)
@[simp] theorem completeOk_status : (s.completeOk r).status = 0#3 := (rfl)
@[simp] theorem completeOk_sel : (s.completeOk r).sel = r.sel := (rfl)
@[simp] theorem completeOk_count : (s.completeOk r).count = r.count := (rfl)
@[simp] theorem completeOk_word : (s.completeOk r).word = r.word := (rfl)
@[simp] theorem completeOk_lane : (s.completeOk r).lane = r.lane := (rfl)
@[simp] theorem completeOk_inW : (s.completeOk r).inW = s.inW := (rfl)
@[simp] theorem completeOk_input : (s.completeOk r).input = s.input := (rfl)
@[simp] theorem completeOk_draws : (s.completeOk r).draws = s.draws := (rfl)

@[simp] theorem raiseStatus_valid : (s.raiseStatus code).valid = true := (rfl)
@[simp] theorem raiseStatus_status : (s.raiseStatus code).status = code.code := (rfl)
@[simp] theorem raiseStatus_sel : (s.raiseStatus code).sel = 0#4 := (rfl)
@[simp] theorem raiseStatus_count : (s.raiseStatus code).count = 0#5 := (rfl)
@[simp] theorem raiseStatus_word : (s.raiseStatus code).word = 0#32 := (rfl)
@[simp] theorem raiseStatus_lane :
    (s.raiseStatus code).lane = Vector.replicate 28 0#32 := (rfl)
@[simp] theorem raiseStatus_inW : (s.raiseStatus code).inW = s.inW := (rfl)
@[simp] theorem raiseStatus_input : (s.raiseStatus code).input = s.input := (rfl)
@[simp] theorem raiseStatus_draws : (s.raiseStatus code).draws = s.draws := (rfl)

end Complete

section Reset
variable (s : State)

@[simp] theorem applyReset_valid : s.applyReset.valid = false := (rfl)
@[simp] theorem applyReset_status : s.applyReset.status = 0#3 := (rfl)
@[simp] theorem applyReset_sel : s.applyReset.sel = 0#4 := (rfl)
@[simp] theorem applyReset_count : s.applyReset.count = 0#5 := (rfl)
@[simp] theorem applyReset_word : s.applyReset.word = 0#32 := (rfl)
@[simp] theorem applyReset_lane : s.applyReset.lane = Vector.replicate 28 0#32 := (rfl)
@[simp] theorem applyReset_inW : s.applyReset.inW = s.inW := (rfl)
@[simp] theorem applyReset_input : s.applyReset.input = s.input := (rfl)
@[simp] theorem applyReset_draws : s.applyReset.draws = s.draws := (rfl)

end Reset

section Present
variable (s : State) (x : Input)

@[simp] theorem present_valid : (s.present x).valid = s.valid := (rfl)
@[simp] theorem present_status : (s.present x).status = s.status := (rfl)
@[simp] theorem present_sel : (s.present x).sel = s.sel := (rfl)
@[simp] theorem present_count : (s.present x).count = s.count := (rfl)
@[simp] theorem present_word : (s.present x).word = s.word := (rfl)
@[simp] theorem present_lane : (s.present x).lane = s.lane := (rfl)
@[simp] theorem present_inW : (s.present x).inW = s.inW := (rfl)
@[simp] theorem present_input : (s.present x).input = .present x :: s.input := (rfl)
@[simp] theorem present_draws : (s.present x).draws = s.draws := (rfl)

end Present

/-- An error completion clears the data registers (R119). -/
theorem raiseStatus_completedError (s : State) (code : Status) :
    (s.raiseStatus code).completedError code.code := by
  simp [State.completedError, State.dataCleared]

end Sys2Proof.Machine
end

