-- ==== Sys2Proof/Laws/Ops.lean ====
section
/-!
SUPPORT. What a host read, a host action and a step can do, each said once.
-/

namespace Sys2Proof.Machine

/-- A host read answers with the register's value, or faults while RES.valid = 0 (R23, R29). -/
theorem hostRead_cases (r : ResultReg) (s : State) :
    ((s.valid = true ∨ r = .valid) ∧ hostRead r s = .next (s.resultValue r))
    ∨ (s.valid = false ∧ r ≠ .valid ∧ hostRead r s = .fault (.readBeforeCommand r)) := by
  unfold hostRead
  cases hv : s.valid <;> by_cases hr : r = .valid <;> simp [hr]

@[simp] theorem hostRead_of_valid (r : ResultReg) (s : State) (h : s.valid = true) :
    hostRead r s = .next (s.resultValue r) := by
  simp [hostRead, h]

/-- Every instruction answers a completion: IN_W, the host's actions and the draws stay (R119, R120). -/
theorem exec_completes (i : Instr) (s : State) :
    ∃ code r, exec i s = .next (s.complete code r) ∧ (code ≠ .ok → r = {}) := by
  cases i with
  | validate n lanes =>
    simp only [exec, execValidate]
    split
    · exact ⟨_, _, rfl, fun _ => rfl⟩
    split
    · exact ⟨_, _, rfl, fun _ => rfl⟩
    · exact ⟨_, _, rfl, fun _ => rfl⟩
  | pack n lanes =>
    simp only [exec, execPack]
    split
    · exact ⟨_, _, rfl, fun _ => rfl⟩
    · exact ⟨_, _, rfl, fun h => absurd rfl h⟩
  | select n lanes =>
    simp only [exec, execSelect]
    split
    · exact ⟨_, _, rfl, fun _ => rfl⟩
    · exact ⟨_, _, rfl, fun h => absurd rfl h⟩
  | _ => exact ⟨_, _, rfl, fun h => absurd rfl h⟩

/-- What the block does with a presented input. -/
theorem runInput_cases (x : Input) (s : State) :
    (∃ e, decode x = .error e ∧ runInput x s = .next (s.raiseStatus .illegalCommand))
    ∨ (∃ i, decode x = .ok i ∧ i.wellFormed s.inW = true ∧ runInput x s = exec i s)
    ∨ (∃ i, decode x = .ok i ∧ i.wellFormed s.inW = false ∧ runInput x s = .refused .laneTooWide) := by
  unfold runInput
  cases h : decode x with
  | error e => left; exact ⟨e, rfl, by cases e; rfl⟩
  | ok i =>
    right
    cases hw : i.wellFormed s.inW with
    | true => left; exact ⟨i, rfl, hw, by simp [hw]⟩
    | false => right; exact ⟨i, rfl, hw, by simp [hw]⟩

/-- Everything a step that goes on can do: nothing presented and nothing changed; a completion of the
presented input; a read that changes nothing; a reset. -/
theorem step_cases {s t : State} (h : step s = .next t) :
    (s.input = [] ∧ t = s)
    ∨ (∃ x rest code r, s.input = .present x :: rest
        ∧ t = State.complete { s with input := rest } code r
        ∧ ((code = .illegalCommand ∧ r = {})
          ∨ ∃ i, decode x = .ok i ∧ i.wellFormed s.inW = true
              ∧ exec i { s with input := rest } = .next t))
    ∨ (∃ reg rest, s.input = .read reg :: rest ∧ (s.valid = true ∨ reg = .valid)
        ∧ t = { s with input := rest })
    ∨ (∃ rest, s.input = .reset :: rest ∧ t = State.applyReset { s with input := rest }) := by
  unfold step at h
  cases hin : s.input with
  | nil => rw [hin] at h; left; exact ⟨rfl, by cases h; rfl⟩
  | cons a rest =>
    rw [hin] at h
    right
    cases a with
    | present x =>
      left
      simp only [runAction] at h
      rcases runInput_cases x { s with input := rest } with ⟨e, -, hr⟩ | ⟨i, hd, hw, hr⟩ | ⟨i, -, -, hr⟩
      · rw [hr] at h
        cases h
        exact ⟨x, rest, .illegalCommand, {}, rfl, rfl, .inl ⟨rfl, rfl⟩⟩
      · rw [hr] at h
        obtain ⟨code, r, he, -⟩ := exec_completes i { s with input := rest }
        have ht : t = State.complete { s with input := rest } code r := by
          rw [he] at h; cases h; rfl
        exact ⟨x, rest, code, r, rfl, ht, .inr ⟨i, hd, hw, h⟩⟩
      · rw [hr] at h; cases h
    | read reg =>
      right; left
      simp only [runAction] at h
      rcases hostRead_cases reg { s with input := rest } with ⟨hv, hr⟩ | ⟨-, -, hr⟩
      · rw [hr] at h
        cases h
        exact ⟨reg, rest, rfl, hv, rfl⟩
      · rw [hr] at h; cases h
    | reset =>
      right; right
      simp only [runAction] at h
      cases h
      exact ⟨rest, rfl, rfl⟩

end Sys2Proof.Machine
end

