-- ==== Sys2Proof/Laws/Packer.lean ====
section
/-!
SUPPORT. What fit, selection and insertion give (41_pack_select.md R85 to R87), and what a word made
by insertion holds in each slot.
-/

namespace Sys2Proof.Machine

/-! ### Lanes and tests -/

theorem laneValue_of_lt (lanes : Lanes) {j : Nat} (h : j < 28) :
    laneValue lanes j = (lanes[j]'h).toNat := by
  simp [laneValue, h]

theorem countTooLarge_iff (n : Count) : countTooLarge n = true ↔ 28 < n.toNat := by
  simp [countTooLarge]

/-- The range test over the valid lanes (R81). -/
theorem outOfRange_iff (lanes : Lanes) {n : Nat} (h : n ≤ 28) :
    outOfRange lanes n = true ↔ ∃ j : Fin 28, j.val < n ∧ lanes[j].toNat > 268435455 := by
  simp only [outOfRange, List.any_eq_true, List.mem_range, decide_eq_true_eq]
  constructor
  · rintro ⟨j, hj, hv⟩
    exact ⟨⟨j, by omega⟩, hj, by simpa [laneValue_of_lt lanes (show j < 28 by omega), maxValue] using hv⟩
  · rintro ⟨j, hj, hv⟩
    exact ⟨j.val, hj, by simpa [laneValue_of_lt lanes j.isLt, maxValue] using hv⟩

theorem outOfRange_eq_false_iff (lanes : Lanes) {n : Nat} (h : n ≤ 28) :
    outOfRange lanes n = false ↔ ∀ j : Fin 28, j.val < n → lanes[j].toNat ≤ 268435455 := by
  rw [← Bool.not_eq_true, outOfRange_iff lanes h]
  simp

/-! ### Fit -/

/-- `fits` is the statement of R85. -/
theorem fits_iff (k : Selector) (lanes : Lanes) (n : Nat) :
    fits (layoutAt k) lanes n = true ↔ windowFits k lanes n := by
  have hc := layout_count_le k
  simp only [fits, windowFits, List.all_eq_true, List.mem_range, decide_eq_true_eq]
  constructor
  · intro h j hj
    simpa [laneValue_of_lt lanes j.isLt] using h j.val hj
  · intro h j hj
    have : j < 28 := by omega
    simpa [laneValue_of_lt lanes this] using h ⟨j, this⟩ hj

theorem windowFits_lane (k : Selector) (lanes : Lanes) {n j : Nat} (h : windowFits k lanes n)
    (hj : j < consumedCount k n) : laneValue lanes j < 2 ^ (layoutAt k).width j := by
  have hc := layout_count_le k
  have hj' : j < 28 := by unfold consumedCount at hj; omega
  rw [laneValue_of_lt lanes hj']
  exact h ⟨j, hj'⟩ hj

/-! ### Selection -/

theorem selectors_getElem (i : Nat) (h : i < selectors.length) : selectors[i] = BitVec.ofNat 4 i := by
  simp [selectors]

theorem selectors_length : selectors.length = 16 := by simp [selectors]

/-- `selectLayout` answers the first layout that fits (R86, R92). -/
theorem selectLayout_eq_some_iff (lanes : Lanes) (n : Nat) (k : Selector) :
    selectLayout lanes n = some k ↔ firstFit k lanes n := by
  simp only [selectLayout, List.find?_eq_some_iff_getElem, firstFit, fits_iff]
  constructor
  · rintro ⟨hk, i, hi, hik, hlt⟩
    refine ⟨hk, fun k' hk' hf => ?_⟩
    rw [selectors_getElem] at hik
    have h16 := selectors_length
    have hki : k.toNat = i := by rw [← hik]; simp; omega
    have := hlt k'.toNat (by omega)
    rw [selectors_getElem] at this
    simp only [BitVec.ofNat_toNat, BitVec.setWidth_eq, Bool.not_eq_true', ← Bool.not_eq_true, fits_iff] at this
    exact this hf
  · rintro ⟨hk, hlt⟩
    have h16 := selectors_length
    refine ⟨hk, k.toNat, by omega, by rw [selectors_getElem]; simp, fun j hj => ?_⟩
    rw [selectors_getElem]
    have := hlt (BitVec.ofNat 4 j) (by simp; omega)
    rw [← fits_iff] at this
    simpa using this

theorem selectLayout_eq_none_iff (lanes : Lanes) (n : Nat) :
    selectLayout lanes n = none ↔ ∀ k : Selector, ¬ windowFits k lanes n := by
  simp only [selectLayout, List.find?_eq_none, fits_iff]
  constructor
  · intro h k
    exact h k (by
      refine List.mem_iff_getElem.2 ⟨k.toNat, by rw [selectors_length]; omega, ?_⟩
      rw [selectors_getElem]; simp)
  · intro h k _
    exact h k

/-- Layout 15 fits exactly the windows whose first value is representable (R90). -/
theorem windowFits_fifteen_iff (lanes : Lanes) {n : Nat} (h : 0 < n) :
    windowFits 15#4 lanes n ↔ lanes[0].toNat ≤ 268435455 := by
  constructor
  · intro hf
    have := hf 0 (by simp; omega)
    simp only [Fin.val_zero, layout_fifteen_width] at this
    have h0 : lanes[(0 : Fin 28)] = lanes[0] := rfl
    rw [h0] at this
    omega
  · intro hv j hj
    simp only [layout_fifteen_count] at hj
    have hj0 : j = 0 := by ext; simp; omega
    subst hj0
    simp only [Fin.val_zero, layout_fifteen_width]
    have h0 : lanes[(0 : Fin 28)] = lanes[0] := rfl
    rw [h0]
    omega

/-- A layout that fits a window has a representable first value. -/
theorem windowFits_first (k : Selector) (lanes : Lanes) {n : Nat} (h : 0 < n)
    (hf : windowFits k lanes n) : lanes[0].toNat ≤ 268435455 := by
  have h1 := hf 0 (by have := layout_count_pos k; simp; omega)
  have h2 : 2 ^ (layoutAt k).width 0 ≤ 2 ^ 28 :=
    Nat.pow_le_pow_right (by omega) (layout_width_le k 0)
  have h0 : lanes[(0 : Fin 28)] = lanes[0] := rfl
  rw [h0] at h1
  simp only [Fin.val_zero] at h1
  omega

/-! ### Insertion -/

/-- The payload as a sum: each value times the weight of its slot. -/
def payloadSum (k : Selector) (lanes : Lanes) : Nat → Nat
  | 0 => 0
  | c + 1 => payloadSum k lanes c + laneValue lanes c * 2 ^ (layoutAt k).off c

/-- The values of a window stay below the next slot's offset. -/
theorem payloadSum_lt (k : Selector) (lanes : Lanes) {c : Nat} (hc : c ≤ (layoutAt k).count)
    (hf : ∀ j < c, laneValue lanes j < 2 ^ (layoutAt k).width j) :
    payloadSum k lanes c < 2 ^ (layoutAt k).off c := by
  induction c with
  | zero => simp [payloadSum]
  | succ c ih =>
    have ih := ih (by omega) fun j hj => hf j (by omega)
    have hv := hf c (by omega)
    rw [payloadSum, layout_off_succ k (by omega), pow_add]
    nlinarith [Nat.two_pow_pos ((layoutAt k).off c)]

/-- ORing a value into free bits adds it. -/
theorem or_shift_eq_add {a S v o w : Nat} (hS : S < 2 ^ o) (hv : v < 2 ^ w) (ho : o + w ≤ 28) :
    (a * 2 ^ 28 + S) ||| (v <<< o) = a * 2 ^ 28 + (S + v * 2 ^ o) := by
  obtain ⟨d, hd⟩ := Nat.exists_eq_add_of_le ho
  have e : a * 2 ^ 28 = 2 ^ o * (2 ^ (w + d) * a) := by
    rw [hd, pow_add, pow_add, pow_add]; ring
  have hv' : v < 2 ^ (w + d) := lt_of_lt_of_le hv (Nat.pow_le_pow_right (by omega) (by omega))
  have hor : 2 ^ o * (2 ^ (w + d) * a) ||| 2 ^ o * v = 2 ^ o * (2 ^ (w + d) * a + v) := by
    rw [Nat.two_pow_add_eq_or_of_lt hv', Nat.mul_comm (2 ^ o), Nat.mul_comm (2 ^ o) v,
      Nat.mul_comm (2 ^ o), ← Nat.shiftLeft_eq, ← Nat.shiftLeft_eq, ← Nat.shiftLeft_eq,
      Nat.shiftLeft_or_distrib]
  rw [e, Nat.two_pow_add_eq_or_of_lt hS, Nat.shiftLeft_eq, Nat.mul_comm v, Nat.or_right_comm, hor,
    ← Nat.two_pow_add_eq_or_of_lt hS]
  ring

/-- The accumulator of R87 is the selector's weight plus the payload sum: no bit is lost or carried
(R96). -/
theorem insert_fold_eq (k : Selector) (lanes : Lanes) {c : Nat} (hc : c ≤ (layoutAt k).count)
    (hf : ∀ j < c, laneValue lanes j < 2 ^ (layoutAt k).width j) :
    (List.range c).foldl (fun acc j => acc ||| (laneValue lanes j <<< (layoutAt k).off j))
      (k.toNat <<< 28) = k.toNat * 2 ^ 28 + payloadSum k lanes c := by
  induction c with
  | zero => rw [List.range_zero, List.foldl_nil, payloadSum, Nat.shiftLeft_eq, Nat.add_zero]
  | succ c ih =>
    rw [List.range_succ, List.foldl_append, ih (by omega) fun j hj => hf j (by omega),
      List.foldl_cons, List.foldl_nil, payloadSum]
    exact or_shift_eq_add (payloadSum_lt k lanes (by omega) fun j hj => hf j (by omega))
      (hf c (by omega)) (layout_slot_end_le k (by omega))

/-- The inserted word as a number (R87, R96). -/
theorem insertSlots_toNat (k : Selector) (lanes : Lanes) {c : Nat} (hc : c ≤ (layoutAt k).count)
    (hf : ∀ j < c, laneValue lanes j < 2 ^ (layoutAt k).width j) :
    (insertSlots k lanes c).toNat = k.toNat * 2 ^ 28 + payloadSum k lanes c := by
  have h1 := payloadSum_lt k lanes hc hf
  have h2 : 2 ^ (layoutAt k).off c ≤ 2 ^ 28 := Nat.pow_le_pow_right (by omega) (layout_off_le k c)
  rw [insertSlots, insert_fold_eq k lanes hc hf, BitVec.toNat_ofNat, Nat.mod_eq_of_lt]
  omega

/-- The selector field of the inserted word (R96). -/
theorem insertSlots_selector (k : Selector) (lanes : Lanes) {c : Nat} (hc : c ≤ (layoutAt k).count)
    (hf : ∀ j < c, laneValue lanes j < 2 ^ (layoutAt k).width j) :
    selectorOf (insertSlots k lanes c) = k := by
  have h1 := payloadSum_lt k lanes hc hf
  have h2 : 2 ^ (layoutAt k).off c ≤ 2 ^ 28 := Nat.pow_le_pow_right (by omega) (layout_off_le k c)
  apply BitVec.eq_of_toNat_eq
  rw [selectorOf, BitVec.extractLsb'_toNat, insertSlots_toNat k lanes hc hf, Nat.shiftRight_eq_div_pow]
  omega

/-- What slot `j` reads in a word whose payload holds the first `c` values: the value, or 0 where no
value was inserted (R57, R91). -/
theorem slot_of_sum (k : Selector) (lanes : Lanes) {c j : Nat} (hc : c ≤ (layoutAt k).count)
    (hj : j < (layoutAt k).count) (hf : ∀ j < c, laneValue lanes j < 2 ^ (layoutAt k).width j) :
    (k.toNat * 2 ^ 28 + payloadSum k lanes c) / 2 ^ (layoutAt k).off j % 2 ^ (layoutAt k).width j
      = if j < c then laneValue lanes j else 0 := by
  obtain ⟨d, hd⟩ := Nat.exists_eq_add_of_le (layout_slot_end_le k hj)
  have hpos := Nat.two_pow_pos ((layoutAt k).off j)
  have htop : k.toNat * 2 ^ 28
      = 2 ^ (layoutAt k).off j * (2 ^ (layoutAt k).width j * (2 ^ d * k.toNat)) := by
    rw [hd, pow_add, pow_add]; ring
  induction c with
  | zero =>
    simp only [payloadSum, Nat.add_zero, Nat.not_lt_zero, if_false]
    rw [htop, Nat.mul_div_cancel_left _ hpos, Nat.mul_mod_right]
  | succ c ih =>
    have hfc : ∀ j < c, laneValue lanes j < 2 ^ (layoutAt k).width j := fun j hj => hf j (by omega)
    have ih := ih (by omega) hfc
    have hlt := payloadSum_lt k lanes (show c ≤ (layoutAt k).count by omega) hfc
    rcases lt_trichotomy j c with hjc | rfl | hjc
    · -- a later value lands above this slot
      obtain ⟨e, he⟩ := Nat.exists_eq_add_of_le (layout_off_mono (layoutAt k) (show j + 1 ≤ c by omega))
      rw [layout_off_succ k hj] at he
      have hup : laneValue lanes c * 2 ^ (layoutAt k).off c
          = 2 ^ (layoutAt k).off j * (2 ^ (layoutAt k).width j * (2 ^ e * laneValue lanes c)) := by
        rw [he, pow_add, pow_add]; ring
      rw [if_pos (by omega), payloadSum, ← Nat.add_assoc, hup, Nat.add_mul_div_left _ _ hpos,
        Nat.add_mul_mod_self_left, ih, if_pos hjc]
    · -- this value's own slot
      rw [if_pos (by omega), payloadSum, htop]
      have : 2 ^ (layoutAt k).off j * (2 ^ (layoutAt k).width j * (2 ^ d * k.toNat))
          + (payloadSum k lanes j + laneValue lanes j * 2 ^ (layoutAt k).off j)
          = payloadSum k lanes j + 2 ^ (layoutAt k).off j
            * (laneValue lanes j + 2 ^ (layoutAt k).width j * (2 ^ d * k.toNat)) := by ring
      rw [this, Nat.add_mul_div_left _ _ hpos, Nat.div_eq_of_lt hlt, Nat.zero_add,
        Nat.add_mul_mod_self_left, Nat.mod_eq_of_lt (hf j (by omega))]
    · -- the payload ends below this slot
      have hall := payloadSum_lt k lanes hc hf
      have hle : 2 ^ (layoutAt k).off (c + 1) ≤ 2 ^ (layoutAt k).off j :=
        Nat.pow_le_pow_right (by omega) (layout_off_mono _ (by omega))
      rw [if_neg (by omega), htop, Nat.mul_add_div hpos, Nat.div_eq_of_lt (by omega), Nat.add_zero,
        Nat.mul_mod_right]

/-- What slot `j` of the inserted word holds (R57, R87, R91). -/
theorem slotNumber_insertSlots (k : Selector) (lanes : Lanes) {c j : Nat}
    (hc : c ≤ (layoutAt k).count) (hj : j < (layoutAt k).count)
    (hf : ∀ j < c, laneValue lanes j < 2 ^ (layoutAt k).width j) :
    slotNumber (insertSlots k lanes c) k j = if j < c then laneValue lanes j else 0 := by
  rw [slotNumber, insertSlots_toNat k lanes hc hf, slot_of_sum k lanes hc hj hf]

/-! ### The tests of PACK and SELECT -/

/-- Everything `chooseLayout` can answer, in the order of R122. -/
theorem chooseLayout_cases (n : Count) (lanes : Lanes) :
    (28 < n.toNat ∧ chooseLayout n lanes = .error .badCount)
    ∨ (n.toNat = 0 ∧ chooseLayout n lanes = .error .emptyWindow)
    ∨ (0 < n.toNat ∧ n.toNat ≤ 28 ∧ 268435455 < lanes[0].toNat
        ∧ chooseLayout n lanes = .error .noFit)
    ∨ (0 < n.toNat ∧ n.toNat ≤ 28 ∧ lanes[0].toNat ≤ 268435455
        ∧ ∃ k, firstFit k lanes n.toNat ∧ chooseLayout n lanes = .ok k) := by
  unfold chooseLayout
  by_cases hbad : 28 < n.toNat
  · left; exact ⟨hbad, by simp [(countTooLarge_iff n).2 hbad]⟩
  have hnb : countTooLarge n = false := by simpa [countTooLarge] using hbad
  by_cases h0 : n.toNat = 0
  · right; left; exact ⟨h0, by simp [hnb, h0]⟩
  right; right
  cases hsel : selectLayout lanes n.toNat with
  | none =>
    left
    rw [selectLayout_eq_none_iff] at hsel
    refine ⟨by omega, by omega, ?_, by simp [hnb, h0]⟩
    by_contra hle
    exact hsel 15#4 ((windowFits_fifteen_iff lanes (by omega)).2 (by omega))
  | some k =>
    right
    rw [selectLayout_eq_some_iff] at hsel
    exact ⟨by omega, by omega, windowFits_first k lanes (by omega) hsel.1, k, hsel, by simp [hnb, h0]⟩

end Sys2Proof.Machine
end

