-- ==== Sys2Proof/Laws/PerInstr.lean ====
section
/-!
SUPPORT. Facts about every instruction as syntax, one lemma per constructor.
-/

namespace Sys2Proof.Laws.FixedBits

/-- The encoding of an instruction has its opcode-table row's format and fixed bits: a control byte
with the row's operation in bits 2:0, or a packed word with the row's selector in bits 31:28. -/
def Statement : Instr → Prop
  | .validate n lanes => ∃ c, encode (.validate n lanes) = .command c ∧ operationOf c.ctrl = 0b000#3
  | .pack n lanes => ∃ c, encode (.pack n lanes) = .command c ∧ operationOf c.ctrl = 0b001#3
  | .select n lanes => ∃ c, encode (.select n lanes) = .command c ∧ operationOf c.ctrl = 0b010#3
  | .unpack n word => ∃ c, encode (.unpack n word) = .command c ∧ operationOf c.ctrl = 0b011#3
  | .wordLayout0 p => ∃ w, encode (.wordLayout0 p) = .packed w ∧ selectorOf w = 0#4
  | .wordLayout1 p => ∃ w, encode (.wordLayout1 p) = .packed w ∧ selectorOf w = 1#4
  | .wordLayout2 p => ∃ w, encode (.wordLayout2 p) = .packed w ∧ selectorOf w = 2#4
  | .wordLayout3 p => ∃ w, encode (.wordLayout3 p) = .packed w ∧ selectorOf w = 3#4
  | .wordLayout4 p => ∃ w, encode (.wordLayout4 p) = .packed w ∧ selectorOf w = 4#4
  | .wordLayout5 p => ∃ w, encode (.wordLayout5 p) = .packed w ∧ selectorOf w = 5#4
  | .wordLayout6 p => ∃ w, encode (.wordLayout6 p) = .packed w ∧ selectorOf w = 6#4
  | .wordLayout7 p => ∃ w, encode (.wordLayout7 p) = .packed w ∧ selectorOf w = 7#4
  | .wordLayout8 p => ∃ w, encode (.wordLayout8 p) = .packed w ∧ selectorOf w = 8#4
  | .wordLayout9 p => ∃ w, encode (.wordLayout9 p) = .packed w ∧ selectorOf w = 9#4
  | .wordLayout10 p => ∃ w, encode (.wordLayout10 p) = .packed w ∧ selectorOf w = 10#4
  | .wordLayout11 p => ∃ w, encode (.wordLayout11 p) = .packed w ∧ selectorOf w = 11#4
  | .wordLayout12 p => ∃ w, encode (.wordLayout12 p) = .packed w ∧ selectorOf w = 12#4
  | .wordLayout13 p => ∃ w, encode (.wordLayout13 p) = .packed w ∧ selectorOf w = 13#4
  | .wordLayout14 p => ∃ w, encode (.wordLayout14 p) = .packed w ∧ selectorOf w = 14#4
  | .wordLayout15 p => ∃ w, encode (.wordLayout15 p) = .packed w ∧ selectorOf w = 15#4

theorem validate (n : Count) (lanes : Lanes) : Statement (.validate n lanes) :=
  ⟨_, rfl, operationOf_controlByte _ _⟩

theorem pack (n : Count) (lanes : Lanes) : Statement (.pack n lanes) :=
  ⟨_, rfl, operationOf_controlByte _ _⟩

theorem select (n : Count) (lanes : Lanes) : Statement (.select n lanes) :=
  ⟨_, rfl, operationOf_controlByte _ _⟩

theorem unpack (n : Count) (word : Word) : Statement (.unpack n word) :=
  ⟨_, rfl, operationOf_controlByte _ _⟩

theorem wordLayout0 (p : Payload) : Statement (.wordLayout0 p) :=
  ⟨_, rfl, selectorOf_packedWord _ _⟩

theorem wordLayout1 (p : Payload) : Statement (.wordLayout1 p) :=
  ⟨_, rfl, selectorOf_packedWord _ _⟩

theorem wordLayout2 (p : Payload) : Statement (.wordLayout2 p) :=
  ⟨_, rfl, selectorOf_packedWord _ _⟩

theorem wordLayout3 (p : Payload) : Statement (.wordLayout3 p) :=
  ⟨_, rfl, selectorOf_packedWord _ _⟩

theorem wordLayout4 (p : Payload) : Statement (.wordLayout4 p) :=
  ⟨_, rfl, selectorOf_packedWord _ _⟩

theorem wordLayout5 (p : Payload) : Statement (.wordLayout5 p) :=
  ⟨_, rfl, selectorOf_packedWord _ _⟩

theorem wordLayout6 (p : Payload) : Statement (.wordLayout6 p) :=
  ⟨_, rfl, selectorOf_packedWord _ _⟩

theorem wordLayout7 (p : Payload) : Statement (.wordLayout7 p) :=
  ⟨_, rfl, selectorOf_packedWord _ _⟩

theorem wordLayout8 (p : Payload) : Statement (.wordLayout8 p) :=
  ⟨_, rfl, selectorOf_packedWord _ _⟩

theorem wordLayout9 (p : Payload) : Statement (.wordLayout9 p) :=
  ⟨_, rfl, selectorOf_packedWord _ _⟩

theorem wordLayout10 (p : Payload) : Statement (.wordLayout10 p) :=
  ⟨_, rfl, selectorOf_packedWord _ _⟩

theorem wordLayout11 (p : Payload) : Statement (.wordLayout11 p) :=
  ⟨_, rfl, selectorOf_packedWord _ _⟩

theorem wordLayout12 (p : Payload) : Statement (.wordLayout12 p) :=
  ⟨_, rfl, selectorOf_packedWord _ _⟩

theorem wordLayout13 (p : Payload) : Statement (.wordLayout13 p) :=
  ⟨_, rfl, selectorOf_packedWord _ _⟩

theorem wordLayout14 (p : Payload) : Statement (.wordLayout14 p) :=
  ⟨_, rfl, selectorOf_packedWord _ _⟩

theorem wordLayout15 (p : Payload) : Statement (.wordLayout15 p) :=
  ⟨_, rfl, selectorOf_packedWord _ _⟩

end Sys2Proof.Laws.FixedBits
end

