-- ==== Sys2Proof/Laws/Stream.lean ====
section
/-!
SUPPORT. What the host's building blocks give: issuing an instruction, a window of the input, the
value of a result register (43_stream_operations.md R102 to R108).
-/

namespace Sys2Proof.Machine

@[simp] theorem andThen_next {α β : Type} (a : α) (f : α → Host.Outcome β Fault Refusal) :
    andThen (.next a) f = f a := rfl

@[simp] theorem andThen_fault {α β : Type} (r : Fault) (f : α → Host.Outcome β Fault Refusal) :
    andThen (.fault r) f = .fault r := rfl

@[simp] theorem andThen_refused {α β : Type} (r : Refusal) (f : α → Host.Outcome β Fault Refusal) :
    andThen (.refused r) f = .refused r := rfl

/-- A sequence that answers has a first part that answers. -/
theorem andThen_eq_next {α β : Type} {o : Host.Outcome α Fault Refusal}
    {f : α → Host.Outcome β Fault Refusal} {b : β} (h : andThen o f = .next b) :
    ∃ a, o = .next a ∧ f a = .next b := by
  cases o with
  | next a => exact ⟨a, rfl, h⟩
  | fault r => cases h
  | refused r => cases h

/-- What an issued instruction does (R43), once its input decodes to it. -/
theorem issue_of_decode {i : Instr} {s : State} (hd : decode (encode i) = .ok i)
    (hw : i.wellFormed s.inW = true) : issue i s = exec i s := by
  show runInput (encode i) s = exec i s
  simp only [runInput, hd, hw, if_true]

/-- The lanes fit IN_W when each holds an IN_W-bit value (R20). -/
theorem fitWidth_iff (w : InputWidth) (lanes : Lanes) :
    lanes.fitWidth w = true ↔ ∀ j : Fin 28, lanes[j].toNat < 2 ^ w.bits := by
  simp only [Lanes.fitWidth, List.all_eq_true, decide_eq_true_eq, Vector.mem_toList_iff]
  constructor
  · intro h j
    exact h _ (by simp)
  · intro h v hv
    obtain ⟨j, hj, rfl⟩ := Vector.mem_iff_getElem.1 hv
    exact h ⟨j, hj⟩

theorem windowCount_toNat (values : List Lane) (k : Nat) :
    (windowCount values k).toNat = min 28 (values.length - k) := by
  simp only [windowCount, BitVec.toNat_ofNat]
  omega

theorem windowLanes_getElem (values : List Lane) (k : Nat) (j : Fin 28) :
    (windowLanes values k)[j] = values.getD (k + j.val) 0#64 := by
  simp [windowLanes]

theorem laneValue_windowLanes (values : List Lane) (k : Nat) {j : Nat} (h : j < 28) :
    laneValue (windowLanes values k) j = (values.getD (k + j) 0#64).toNat := by
  rw [laneValue_of_lt _ h]
  simp [windowLanes]

/-- A bound on every value of the input bounds every lane of every window. -/
theorem windowLanes_bound {values : List Lane} {b : Nat} (hb : 0 < b)
    (h : ∀ v ∈ values, v.toNat < b) (k : Nat) (j : Fin 28) :
    (windowLanes values k)[j].toNat < b := by
  rw [windowLanes_getElem, List.getD_eq_getElem?_getD]
  cases hv : values[k + j.val]? with
  | none => simpa using hb
  | some v => exact h v (List.mem_of_getElem? hv)

theorem windowLanes_fitWidth {w : InputWidth} {values : List Lane} (h : fitDomain w values)
    (k : Nat) : (windowLanes values k).fitWidth w = true :=
  (fitWidth_iff w _).2 (windowLanes_bound (Nat.two_pow_pos _) h k)

/-! ### The window commands, issued -/

theorem issue_validate {values : List Lane} {s : State} (h : fitDomain s.inW values) (k : Nat) :
    issue (.validate (windowCount values k) (windowLanes values k)) s
      = execValidate (windowCount values k) (windowLanes values k) s :=
  issue_of_decode (decodeCommand_validate _ _ _) (windowLanes_fitWidth h k)

theorem issue_pack {values : List Lane} {s : State} (h : fitDomain s.inW values) (k : Nat) :
    issue (.pack (windowCount values k) (windowLanes values k)) s
      = execPack (windowCount values k) (windowLanes values k) s :=
  issue_of_decode (decodeCommand_pack _ _ _) (windowLanes_fitWidth h k)

theorem issue_select {values : List Lane} {s : State} (h : fitDomain s.inW values) (k : Nat) :
    issue (.select (windowCount values k) (windowLanes values k)) s
      = execSelect (windowCount values k) (windowLanes values k) s :=
  issue_of_decode (decodeCommand_select _ _ _) (windowLanes_fitWidth h k)

theorem issue_unpack (n : Count) (w : Word) (s : State) :
    issue (.unpack n w) s = execUnpack n w s :=
  issue_of_decode (decodeCommand_unpack _ _ _) rfl

end Sys2Proof.Machine
end

