-- ==== Sys2Proof/Tests/Slice0.lean ====
section
/-!
SUPPORT. The model's own tests. Expected values are from 95_test_vectors.md (the vector's name is in the
comment) or written out from the encodings of 30_encoding.md. After them, for every statement with
hypotheses, a concrete state and operands that meet them.
-/

namespace Sys2Proof.Tests

open Sys2Proof Sys2Proof.Machine

/-! ### Helpers -/

/-- The lanes that hold the listed values, 0 beyond them. -/
def lanesOf (values : List Nat) : Lanes := Vector.ofFn fun j => BitVec.ofNat 64 (values.getD j.val 0)

/-- A block just reset whose host will do the listed actions. -/
def blockWith (actions : List HostAction) : State := { State.reset with input := actions }

/-- The outcome is a next state that satisfies `p`. -/
def nextIs (o : Host.Outcome State Fault Refusal) (p : State → Bool) : Bool :=
  match o with
  | .next t => p t
  | .fault _ => false
  | .refused _ => false

/-- Status, selector, count and word are as given. -/
def resultsAre (status : BitVec 3) (sel : Selector) (count : Count) (word : Word) (t : State) : Bool :=
  t.valid && t.status == status && t.sel == sel && t.count == count && t.word == word

/-- Selector, count and lanes after an UNPACK are as given; lanes not listed are 0. -/
def lanesAre (sel : Selector) (values : List Nat) (t : State) : Bool :=
  resultsAre 0#3 sel (BitVec.ofNat 5 values.length) 0#32 t
    && (t.lane.toList.map BitVec.toNat == values ++ List.replicate (28 - values.length) 0)

/-- A command record. -/
def command (ctrl : Byte) (lanes : Lanes) : HostAction := .present (.command ⟨ctrl, lanes, 0#32⟩)

/-! ### Well-formedness: the one check, on each instruction that has lanes -/

theorem test_wf_validate_wide_lane_refused :
    (Instr.validate 1#5 (lanesOf [256])).wellFormed .w8 = false := by decide

theorem test_wf_pack_wide_lane_refused :
    (Instr.pack 1#5 (lanesOf [0, 65536])).wellFormed .w16 = false := by decide

theorem test_wf_select_wide_lane_refused :
    (Instr.select 1#5 (lanesOf [4294967296])).wellFormed .w32 = false := by decide

theorem test_wf_largest_lanes_accepted :
    ((Instr.pack 1#5 (lanesOf [255])).wellFormed .w8
      && (Instr.pack 1#5 (lanesOf [65535])).wellFormed .w16
      && (Instr.pack 1#5 (lanesOf [4294967295])).wellFormed .w32
      && (Instr.pack 1#5 (lanesOf [18446744073709551615])).wellFormed .w64) = true := by decide

theorem test_step_refuses_wide_lane :
    (match step (blockWith [command 0b00001001#8 (lanesOf [4294967296])]) with
      | .refused .laneTooWide => true
      | _ => false) = true := by decide

/-! ### Decoding: one word for every constructor, written out from R59, R60 and R49 -/

theorem test_decode_validate : decodeTableWord 8 0b11100000 = some (.validate 28#5 zeroLanes) := by decide

theorem test_decode_pack : decodeTableWord 8 0b00111001 = some (.pack 7#5 zeroLanes) := by decide

theorem test_decode_select : decodeTableWord 8 0b00010010 = some (.select 2#5 zeroLanes) := by decide

theorem test_decode_unpack : decodeTableWord 8 0b00000011 = some (.unpack 0#5 0#32) := by decide

/-- R62: UNPACK accepts any n. -/
theorem test_decode_unpack_any_count :
    decodeTableWord 8 0b11111011 = some (.unpack 31#5 0#32) := by decide

/-- R61: 100 to 111 are no instruction. -/
theorem test_decode_reserved_operations :
    [0b00000100, 0b00000101, 0b00000110, 0b11101111].map (decodeTableWord 8) = [none, none, none, none] := by decide

theorem test_decode_wordLayout0 :
    decodeTableWord 32 0b00000000000000000001000010000000
      = some (.wordLayout0 0b0000000000000001000010000000#28) := by decide

theorem test_decode_wordLayout1 :
    decodeTableWord 32 0b00010010001101000101011001111000
      = some (.wordLayout1 0b0010001101000101011001111000#28) := by decide

theorem test_decode_wordLayout2 :
    decodeTableWord 32 0b00101111111111111111111111111111
      = some (.wordLayout2 0b1111111111111111111111111111#28) := by decide

theorem test_decode_wordLayout3 :
    decodeTableWord 32 0b00111111111111111111111111111111
      = some (.wordLayout3 0b1111111111111111111111111111#28) := by decide

theorem test_decode_wordLayout4 :
    decodeTableWord 32 0b01000101010101010101010101010110
      = some (.wordLayout4 0b0101010101010101010101010110#28) := by decide

theorem test_decode_wordLayout5 :
    decodeTableWord 32 0b01011010101111001101111011110000
      = some (.wordLayout5 0b1010101111001101111011110000#28) := by decide

theorem test_decode_wordLayout6 :
    decodeTableWord 32 0b01101111111111111111111111111111
      = some (.wordLayout6 0b1111111111111111111111111111#28) := by decide

theorem test_decode_wordLayout7 :
    decodeTableWord 32 0b01110111011111111111111111111000
      = some (.wordLayout7 0b0111011111111111111111111000#28) := by decide

theorem test_decode_wordLayout8 :
    decodeTableWord 32 0b10000111011100111001110011110000
      = some (.wordLayout8 0b0111011100111001110011110000#28) := by decide

theorem test_decode_wordLayout9 :
    decodeTableWord 32 0b10011111111111111111111111111111
      = some (.wordLayout9 0b1111111111111111111111111111#28) := by decide

theorem test_decode_wordLayout10 :
    decodeTableWord 32 0b10101111111111011111001111010000
      = some (.wordLayout10 0b1111111111011111001111010000#28) := by decide

theorem test_decode_wordLayout11 :
    decodeTableWord 32 0b10111111111111111111111111111111
      = some (.wordLayout11 0b1111111111111111111111111111#28) := by decide

theorem test_decode_wordLayout12 :
    decodeTableWord 32 0b11000111111011111100111110100000
      = some (.wordLayout12 0b0111111011111100111110100000#28) := by decide

theorem test_decode_wordLayout13 :
    decodeTableWord 32 0b11010011111110011111110010000000
      = some (.wordLayout13 0b0011111110011111110010000000#28) := by decide

theorem test_decode_wordLayout14 :
    decodeTableWord 32 0b11100000011111111100010000000000
      = some (.wordLayout14 0b0000011111111100010000000000#28) := by decide

theorem test_decode_wordLayout15 :
    decodeTableWord 32 0b11110000000000000000011111100111
      = some (.wordLayout15 0b0000000000000000011111100111#28) := by decide

/-- R80: the encodings of P1 step 2, P5 and V1. -/
theorem test_encode_commands :
    (encode (.pack 7#5 zeroLanes) = .command ⟨0x39#8, zeroLanes, 0#32⟩)
    ∧ (encode (.validate 0#5 zeroLanes) = .command ⟨0x00#8, zeroLanes, 0#32⟩)
    ∧ (encode (.select 0#5 zeroLanes) = .command ⟨0x02#8, zeroLanes, 0#32⟩)
    ∧ (encode (.unpack 31#5 0xF0000000#32) = .command ⟨0xFB#8, zeroLanes, 0xF0000000#32⟩) := by decide

/-- The step runs a table row presented next. -/
theorem test_withFetchWord_runs :
    (nextIs (step (State.reset.withFetchWord 8 0x01)) (resultsAre 3#3 0#4 0#5 0#32)
      && nextIs (step (State.reset.withFetchWord 32 0xF00007E7)) (lanesAre 15#4 [2023])) = true := by decide

/-! ### Reset and host reads -/

theorem test_reset_valid_reads_zero : hostRead .valid State.reset = .next 0#32 := rfl

/-- Item U1. -/
theorem test_read_before_command_faults :
    (match step (blockWith [.read .count]) with
      | .fault (.readBeforeCommand .count) => true
      | _ => false) = true := by decide

/-- R132. -/
theorem test_reset_after_command :
    nextIs (step { blockWith [.reset] with valid := true, status := 1#3 }) (fun t => !t.valid) = true := by decide

/-! ### VALIDATE -/

/-- V2 and V3. -/
theorem test_validate_bound :
    (nextIs (exec (.validate 1#5 (lanesOf [268435455])) State.reset) (resultsAre 0#3 0#4 0#5 0#32)
      && nextIs (exec (.validate 1#5 (lanesOf [268435456])) State.reset) (resultsAre 1#3 0#4 0#5 0#32))
      = true := by decide

/-- V6 and V9. -/
theorem test_validate_beyond_count_and_priority :
    (nextIs (exec (.validate 1#5 (lanesOf [5, 4294967295])) State.reset) (resultsAre 0#3 0#4 0#5 0#32)
      && nextIs (exec (.validate 29#5 (lanesOf [4294967295])) State.reset) (resultsAre 4#3 0#4 0#5 0#32))
      = true := by decide

/-! ### PACK and SELECT -/

/-- P1 step 2 and PS4. -/
theorem test_pack_first_fit :
    (nextIs (exec (.pack 7#5 (lanesOf [1, 5, 18, 99, 2023, 289981, 223389999])) State.reset)
        (resultsAre 0#3 12#4 4#5 0xCC648281#32)
      && nextIs (exec (.pack 21#5 (lanesOf ([4, 3, 3, 3, 3, 3, 3] ++ List.replicate 14 1))) State.reset)
        (resultsAre 0#3 5#4 9#5 0x525B6DB4#32)) = true := by decide

/-- PK17, PK19, PK20, PK21. -/
theorem test_pack_corners :
    (nextIs (exec (.pack 2#5 (lanesOf [0, 4294967295])) State.reset) (resultsAre 0#3 15#4 1#5 0xF0000000#32)
      && nextIs (exec (.pack 1#5 (lanesOf [268435456])) State.reset) (resultsAre 2#3 0#4 0#5 0#32)
      && nextIs (exec (.pack 0#5 zeroLanes) State.reset) (resultsAre 3#3 0#4 0#5 0#32)
      && nextIs (exec (.pack 29#5 zeroLanes) State.reset) (resultsAre 4#3 0#4 0#5 0#32)) = true := by decide

/-- PK14 as SELECT (R93), and PK23. -/
theorem test_select_counts :
    (nextIs (exec (.select 21#5 (lanesOf (List.replicate 21 2))) State.reset) (resultsAre 0#3 4#4 14#5 0#32)
      && nextIs (exec (.select 2#5 zeroLanes) State.reset) (resultsAre 0#3 0#4 2#5 0#32)) = true := by decide

/-! ### UNPACK and the packed words -/

/-- U8, and U13 with n = 31 (P5 step 8's form). -/
theorem test_unpack :
    (nextIs (exec (.unpack 0#5 0xCC648281#32) State.reset) (lanesAre 12#4 [1, 5, 18, 99])
      && nextIs (exec (.unpack 31#5 0xFFFFFFFF#32) State.reset) (lanesAre 15#4 [268435455])) = true := by decide

/-- U3. -/
theorem test_wordLayout0 :
    nextIs (exec (.wordLayout0 0x0001080#28) State.reset)
      (lanesAre 0#4 [0, 0, 0, 0, 0, 0, 0, 1, 0, 0, 0, 0, 1, 0, 0, 0, 0, 0, 0, 0, 0, 0, 0, 0, 0, 0, 0, 0]) = true := by decide

/-- U4. -/
theorem test_wordLayout1 :
    nextIs (exec (.wordLayout1 0x2345678#28) State.reset)
      (lanesAre 1#4 [0, 2, 3, 1, 2, 1, 1, 1, 0, 0, 0, 1, 0, 1, 1, 0, 0, 0, 1, 0, 0]) = true := by decide

/-- PS5. -/
theorem test_wordLayout2 :
    nextIs (exec (.wordLayout2 0xFFFFFFF#28) State.reset)
      (lanesAre 2#4 [1, 1, 1, 1, 1, 1, 1, 3, 3, 3, 3, 3, 3, 3, 1, 1, 1, 1, 1, 1, 1]) = true := by decide

/-- PS7. -/
theorem test_wordLayout3 :
    nextIs (exec (.wordLayout3 0xFFFFFFF#28) State.reset)
      (lanesAre 3#4 [1, 1, 1, 1, 1, 1, 1, 1, 1, 1, 1, 1, 1, 1, 3, 3, 3, 3, 3, 3, 3]) = true := by decide

/-- PS8. -/
theorem test_wordLayout4 :
    nextIs (exec (.wordLayout4 0x5555556#28) State.reset)
      (lanesAre 4#4 [2, 1, 1, 1, 1, 1, 1, 1, 1, 1, 1, 1, 1, 1]) = true := by decide

/-- U6. -/
theorem test_wordLayout5 :
    nextIs (exec (.wordLayout5 0xABCDEF0#28) State.reset)
      (lanesAre 5#4 [0, 7, 5, 7, 6, 4, 7, 2, 5]) = true := by decide

/-- PS13. -/
theorem test_wordLayout6 :
    nextIs (exec (.wordLayout6 0xFFFFFFF#28) State.reset)
      (lanesAre 6#4 [7, 15, 15, 15, 15, 7, 7, 7]) = true := by decide

/-- PS14. -/
theorem test_wordLayout7 :
    nextIs (exec (.wordLayout7 0x77FFFF8#28) State.reset)
      (lanesAre 7#4 [8, 15, 15, 15, 15, 7, 7]) = true := by decide

/-- PS12. -/
theorem test_wordLayout8 :
    nextIs (exec (.wordLayout8 0x7739CF0#28) State.reset)
      (lanesAre 8#4 [16, 7, 7, 7, 7, 7]) = true := by decide

/-- PS19. -/
theorem test_wordLayout9 :
    nextIs (exec (.wordLayout9 0xFFFFFFF#28) State.reset)
      (lanesAre 9#4 [15, 15, 31, 31, 31, 31]) = true := by decide

/-- PS20. -/
theorem test_wordLayout10 :
    nextIs (exec (.wordLayout10 0xFFDF3D0#28) State.reset)
      (lanesAre 10#4 [16, 15, 31, 31, 31]) = true := by decide

/-- PS23. -/
theorem test_wordLayout11 :
    nextIs (exec (.wordLayout11 0xFFFFFFF#28) State.reset)
      (lanesAre 11#4 [31, 31, 63, 63, 63]) = true := by decide

/-- PS24. -/
theorem test_wordLayout12 :
    nextIs (exec (.wordLayout12 0x7EFCFA0#28) State.reset)
      (lanesAre 12#4 [32, 31, 63, 63]) = true := by decide

/-- PS26. -/
theorem test_wordLayout13 :
    nextIs (exec (.wordLayout13 0x3F9FC80#28) State.reset)
      (lanesAre 13#4 [128, 127, 127]) = true := by decide

/-- PS28. -/
theorem test_wordLayout14 :
    nextIs (exec (.wordLayout14 0x07FC400#28) State.reset)
      (lanesAre 14#4 [1024, 511]) = true := by decide

/-- U12. -/
theorem test_wordLayout15 :
    nextIs (exec (.wordLayout15 0x00007E7#28) State.reset)
      (lanesAre 15#4 [2023]) = true := by decide

/-! ### Reserved operations -/

/-- P5 step 2: IllegalCommand before BadCount. -/
theorem test_illegal_before_bad_count :
    nextIs (step (blockWith [command 0xEF#8 zeroLanes])) (resultsAre 5#3 0#4 0#5 0#32) = true := by decide

/-! ### Streams -/

/-- The answer and bytes of a COMPRESS. -/
def compressIs (o : Host.Outcome CompressEnd Fault Refusal) (out : List Byte) : Bool :=
  match o with
  | .next e => decide (e.answer = .ok ()) && e.out == out
  | _ => false

/-- E3: two ones among zeros. -/
theorem test_compress_E3 :
    compressIs (compress [0, 0, 0, 0, 0, 0, 0, 1, 0, 0, 0, 0, 1, 0] [] State.reset)
      [0x80#8, 0x10#8, 0x00#8, 0x00#8] = true := by decide

/-- S9, into a buffer that already holds a byte (R38). -/
theorem test_compress_S9_appends :
    compressIs (compress [7, 7, 7, 7, 7, 7, 7, 8] [0xAA#8] State.reset)
      [0xAA#8, 0x77#8, 0x77#8, 0x77#8, 0x77#8, 0x08#8, 0x00#8, 0x00#8, 0x50#8] = true := by decide

/-- S8. -/
theorem test_calcSize_S8 :
    (match calcSize [268435455, 268435455] State.reset with
      | .next e => decide (e.answer = .ok 8)
      | _ => false) = true := by decide

/-- P4: the failing COMPRESS, with nothing said of the buffer. -/
theorem test_compress_P4_fails :
    (match compress [5, 4294967295] [0xAA#8] State.reset with
      | .next e => decide (e.answer = .error .valueOutOfRange)
      | _ => false) = true := by decide

/-- S12 and S11. -/
theorem test_decompress_S12_S11 :
    (match decompress [1, 0, 0, 0, 0xFF, 0xFF, 0xFF, 0xFF] [] State.reset with
      | .next e => decide (e.answer = .ok ()) && e.out == [1#32] ++ List.replicate 27 0#32 ++ [268435455#32]
      | _ => false) = true
    ∧ decompress [0, 0, 0] [5#32] State.reset
      = .next { answer := .error .alignmentError, out := [5#32], block := State.reset } :=
  ⟨by decide, rfl⟩

/-! ### Witnesses: states and operands that meet the statements' hypotheses -/

/-- A block that has completed a command. -/
def busyBlock : State := { State.reset with valid := true }

/-- Twenty-eight lanes at the largest representable value. -/
def fullLanes : Lanes := lanesOf (List.replicate 28 268435455)

/-- Twenty-eight lanes, the last one just too large. -/
def lastLaneTooLarge : Lanes := lanesOf (List.replicate 27 268435455 ++ [268435456])

theorem witness_ResetInvalidatesResults : (blockWith [.reset, .read .valid]).input = .reset :: [.read .valid] := rfl

theorem witness_ValidFromFirstCompletion :
    (∃ t, step (blockWith [command 0x00#8 zeroLanes]) = .next t ∧ t.valid = true)
    ∧ (∃ t, step (blockWith [.reset]) = .next t ∧ t.valid = false)
    ∧ (∃ t, step (blockWith [.read .valid]) = .next t ∧ t.valid = false) :=
  ⟨⟨_, rfl, rfl⟩, ⟨_, rfl, rfl⟩, ⟨_, rfl, rfl⟩⟩

theorem witness_ReadsGiveRegistersAndChangeNothing :
    ({ busyBlock with input := [.read .word] } : State).valid = true
    ∧ ({ busyBlock with input := [.read .word] } : State).input = .read .word :: [] := ⟨rfl, rfl⟩

theorem witness_StepRunsDecodedInstruction :
    (blockWith [command 0x39#8 (lanesOf [1, 5, 18, 99])]).input
        = .present (.command ⟨0x39#8, lanesOf [1, 5, 18, 99], 0#32⟩) :: []
    ∧ decode (.command ⟨0x39#8, lanesOf [1, 5, 18, 99], 0#32⟩) = .ok (.pack 7#5 (lanesOf [1, 5, 18, 99]))
    ∧ (Instr.pack 7#5 (lanesOf [1, 5, 18, 99])).wellFormed .w32 = true := by
  refine ⟨rfl, rfl, ?_⟩; decide

theorem witness_StepTakesOneActionInOrder :
    ∃ t, step (blockWith [command 0x00#8 zeroLanes, .reset]) = .next t ∧ t.input = [.reset] :=
  ⟨_, rfl, rfl⟩

/-- For the clauses of StepTakesOneActionInOrder on a step with no command and no reset. -/
theorem witness_StepTakesOneActionInOrder_idle :
    (∃ t, step { busyBlock with input := [.read .word] } = .next t)
    ∧ (∀ x rest, ({ busyBlock with input := [.read .word] } : State).input ≠ .present x :: rest)
    ∧ (∀ rest, ({ busyBlock with input := [.read .word] } : State).input ≠ .reset :: rest)
    ∧ busyBlock.input = [] :=
  ⟨⟨_, rfl⟩, by simp, by simp, rfl⟩

theorem witness_StepRefusesOnlyTooWideLanes :
    step (blockWith [command 0x09#8 (lanesOf [4294967296])]) = .refused .laneTooWide := rfl

theorem witness_StepFaultsOnlyOnEarlyRead :
    step (blockWith [.read .count]) = .fault (.readBeforeCommand .count) := rfl

theorem witness_CompletionIgnoresEarlierState :
    ∃ t, step (blockWith [command 0x09#8 (lanesOf [3])]) = .next t
      ∧ ({ busyBlock with input := [command 0x09#8 (lanesOf [3]), .reset] } : State).inW
        = (blockWith [command 0x09#8 (lanesOf [3])]).inW := ⟨_, rfl, rfl⟩

theorem witness_CommandsAreIdempotent :
    ∃ t, step (blockWith [command 0x09#8 (lanesOf [3]), command 0x09#8 (lanesOf [3])]) = .next t := ⟨_, rfl⟩

theorem witness_EveryStepKeepsResultsLegal :
    (blockWith [command 0x09#8 (lanesOf [3])]).Inv
    ∧ ∃ t, step (blockWith [command 0x09#8 (lanesOf [3])]) = .next t ∧ t.valid = true :=
  ⟨fun h => Bool.noConfusion h, _, rfl, rfl⟩

theorem witness_EncodeInvertsDecode :
    decode (.packed 0x12345678#32) = .ok (.wordLayout1 0x2345678#28)
    ∧ decode (.command ⟨0x12#8, zeroLanes, 7#32⟩) = .ok (.select 2#5 zeroLanes)
    ∧ decode (.command ⟨0xFB#8, fullLanes, 7#32⟩) = .ok (.unpack 31#5 7#32) := ⟨rfl, rfl, rfl⟩

theorem witness_ControlByteNamesOperation :
    (0xE0#8).toNat % 8 = 0 ∧ (0xE1#8).toNat % 8 = 1 ∧ (0xE2#8).toNat % 8 = 2 ∧ (0xFB#8).toNat % 8 = 3 := by decide

theorem witness_ReservedOperationIsIllegal :
    (blockWith [command 0x04#8 zeroLanes]).input = .present (.command ⟨0x04#8, zeroLanes, 0#32⟩) :: []
    ∧ 4 ≤ (0x04#8).toNat % 8 := ⟨rfl, by decide⟩

theorem witness_CountFieldMeaning : 29 ≤ (29#5).toNat ∧ (28#5).toNat ≤ 28 := by decide

theorem witness_ValidateChecksWindow_ok :
    (28#5).toNat ≤ 28 ∧ ∀ j : Fin 28, j.val < (28#5).toNat → fullLanes[j].toNat ≤ 268435455 := by decide

theorem witness_ValidateChecksWindow_outOfRange :
    (28#5).toNat ≤ 28 ∧ ∃ j : Fin 28, j.val < (28#5).toNat ∧ 268435455 < lastLaneTooLarge[j].toNat :=
  ⟨by decide, 27, by decide, by decide⟩

theorem witness_ValidateChecksWindow_badCount : 28 < (29#5).toNat := by decide

theorem witness_NarrowValidateNeverOutOfRange :
    (State.resetOf .w8).inW = .w8
    ∧ (Instr.validate 28#5 (lanesOf (List.replicate 28 255))).wellFormed .w8 = true := by decide

theorem witness_ValidatedWindowAlwaysFits :
    1 ≤ (1#5).toNat ∧ ∃ t, exec (.validate 1#5 fullLanes) State.reset = .next t ∧ t.status = 0#3 :=
  ⟨by decide, _, rfl, by decide⟩

theorem witness_PackPacksFirstFit_ok :
    1 ≤ (1#5).toNat ∧ (28#5).toNat ≤ 28 ∧ fullLanes[0].toNat ≤ 268435455 := by decide

theorem witness_PackPacksFirstFit_noFit :
    1 ≤ (1#5).toNat ∧ (28#5).toNat ≤ 28 ∧ 268435455 < (lanesOf [268435456])[0].toNat := by decide

theorem witness_PackPacksFirstFit_empty_badCount : (0#5).toNat = 0 ∧ 28 < (29#5).toNat := by decide

theorem witness_SelectCountsFirstFit_ok :
    1 ≤ (28#5).toNat ∧ (28#5).toNat ≤ 28 ∧ fullLanes[0].toNat ≤ 268435455 := by decide

theorem witness_SelectCountsFirstFit_noFit :
    1 ≤ (28#5).toNat ∧ (28#5).toNat ≤ 28 ∧ 268435455 < (lanesOf [268435456])[0].toNat := by decide

theorem witness_SelectCountsFirstFit_empty_badCount : (0#5).toNat = 0 ∧ 28 < (31#5).toNat := by decide

/-- For PartlyFilledOnlyWhenWindowShort, PackedWordLosesNoBit and UnpackInvertsPack: a normal PACK, partly
filled (PK10). -/
theorem witness_normalPack :
    ∃ t, exec (.pack 2#5 (lanesOf [1, 2])) State.reset = .next t ∧ t.status = 0#3 ∧ t.word = 0x10000009#32
      ∧ t.count.toNat < (layoutAt t.sel).count :=
  ⟨_, rfl, by decide, by decide, by decide⟩

/-- For the last clauses of PartlyFilledOnlyWhenWindowShort and PackedWordLosesNoBit: lanes below and at the
count, two lanes in order. -/
theorem witness_normalPack_lanes :
    ∃ t, exec (.pack 2#5 (lanesOf [1, 2])) State.reset = .next t
      ∧ (0 : Fin 28).val < (1 : Fin 28).val ∧ (1 : Fin 28).val < t.count.toNat
      ∧ t.count.toNat ≤ (2 : Fin 28).val ∧ (2 : Fin 28).val < (layoutAt t.sel).count :=
  ⟨_, rfl, by decide, by decide, by decide, by decide⟩

theorem witness_LanesBeyondCountUnread :
    ∀ j : Fin 28, j.val < (1#5).toNat → (lanesOf [5, 4294967295])[j] = (lanesOf [5, 0])[j] := by decide

theorem witness_UnpackRunsItsWord : decode (.packed 0xCC648281#32) = .ok (.wordLayout12 0xC648281#28) := rfl

theorem witness_EveryWordCompletesNormally :
    (encode (.unpack 31#5 0xF0000000#32) = .command ⟨0xFB#8, zeroLanes, 0xF0000000#32⟩)
    ∧ (blockWith [.present (.packed 0xF0000000#32)]).input = .present (.packed 0xF0000000#32) :: [] := ⟨rfl, rfl⟩

theorem witness_UnpackedValuesFitTheirSlots :
    ∃ t, exec (.unpack 0#5 0xFFFFFFFF#32) State.reset = .next t ∧ 0 < t.count.toNat := ⟨_, rfl, by decide⟩

theorem witness_ErrorsClearEveryDataRegister :
    ∃ t, exec (.pack 0#5 zeroLanes) State.reset = .next t ∧ t.status ≠ 0#3 := ⟨_, rfl, by decide⟩

theorem witness_ErrorPriority :
    (blockWith [command 0xE8#8 (lanesOf [4294967295])]).input
        = .present (.command ⟨0xE8#8, lanesOf [4294967295], 0#32⟩) :: []
    ∧ (lanesOf [4294967295]).fitWidth .w32 = true := ⟨rfl, by decide⟩

/-- For CompressRejectsExactlyTooLarge and FailedCompressKeepsOldBytes. -/
theorem witness_wideStream_tooLarge :
    State.reset.inW = .w32 ∧ fitDomain .w32 [5, 4294967295]
    ∧ ∃ v ∈ ([5, 4294967295] : List Lane), 268435455 < v.toNat := by
  simp [fitDomain, InputWidth.bits, State.reset, State.resetOf]

theorem witness_NarrowStreamsNeverFail :
    (State.resetOf .w16).inW = .w16 ∧ fitDomain .w16 [65535, 65535] := by
  simp [fitDomain, InputWidth.bits, State.resetOf]

/-- For CompressOnlyAppends, StreamRoundTrip, SizeCoherence, PaddingBelowLastSlotCount and
CompressPacksGreedyWords (P1's input). -/
theorem witness_representableStream :
    fitDomain State.reset.inW [1, 5, 18, 99, 2023, 289981, 223389999]
    ∧ representable [1, 5, 18, 99, 2023, 289981, 223389999]
    ∧ ([1, 5, 18, 99, 2023, 289981, 223389999] : List Lane) ≠ [] := by
  simp [fitDomain, representable, InputWidth.bits, State.reset, State.resetOf]

/-- The window of CompressPacksGreedyWords for P1's input, with a lane beyond it that is not 0. -/
theorem witness_CompressPacksGreedyWords :
    (7#5).toNat = min 28 ([1, 5, 18, 99, 2023, 289981, 223389999] : List Lane).length
    ∧ ∀ j : Fin 28, j.val < (7#5).toNat →
      (lanesOf [1, 5, 18, 99, 2023, 289981, 223389999, 9])[j]
        = ([1, 5, 18, 99, 2023, 289981, 223389999] : List Lane).getD j.val 0#64 := by decide

theorem witness_ZerosPackDensely : 28 ≤ 28 ∧ 28 ≤ 57 := by decide

theorem witness_SingleMaximumValue : (State.resetOf .w64).inW = .w64 := rfl

theorem witness_MisalignedStreamRejectedWhole : ([1, 0, 0, 0, 0xFF] : List Byte).length % 4 ≠ 0 := by decide

theorem witness_AlignedStreamAlwaysDecodes : ([1, 0, 0, 0, 0xFF, 0, 0, 0x80] : List Byte).length % 4 = 0 := by decide

theorem witness_SelectionFindsRepresentable : 1 ≤ 1 ∧ fullLanes[0].toNat ≤ 268435455 := by decide

end Sys2Proof.Tests
end

section
/-!
Proofs of the statements on the state: reset, the result registers and one step (10_state.md). First
what a completion can hold and what one host action answers, each said once; then the statements.
-/

namespace Sys2Proof.Machine

/-! ### Data registers as a completion writes them -/

/-- What the data registers of a completion may hold (R25 to R28, R96): the part of
`State.LegalResults` that speaks of data alone. -/
structure Results.Legal (r : Results) : Prop where
  count_bound : r.count.toNat ≤ (layoutAt r.sel).count
  lane_fits : ∀ j : Fin 28, r.lane[j].toNat < 2 ^ (layoutAt r.sel).width j.val
  lane_beyond : ∀ j : Fin 28, r.count.toNat ≤ j.val → r.lane[j] = 0#32
  word_selector : r.word ≠ 0#32 → selectorOf r.word = r.sel ∧ ∀ j : Fin 28, r.lane[j] = 0#32

/-- With no result lane written, only the count's bound and the word's selector remain. -/
theorem Results.legal_of_no_lanes {k : Selector} {c : Count} {w : Word}
    (hc : c.toNat ≤ (layoutAt k).count) (hw : w ≠ 0#32 → selectorOf w = k) :
    Results.Legal { sel := k, count := c, word := w } where
  count_bound := hc
  lane_fits j := by simp
  lane_beyond j _ := by simp
  word_selector h := ⟨hw h, fun j => by simp⟩

/-- An error completion's data, and VALIDATE's: all registers 0 (R119, R120). -/
theorem Results.legal_zero : Results.Legal {} :=
  Results.legal_of_no_lanes (Nat.zero_le _) fun h => absurd rfl h

theorem extractAll_legal (k : Selector) (w : Word) : (extractAll k w).Legal where
  count_bound := by simp
  lane_fits j := by
    rw [extractAll_lane, extractAll_sel]
    split
    · exact slotNumber_lt w k j.val
    · exact Nat.two_pow_pos _
  lane_beyond j h := by
    rw [extractAll_count] at h
    apply BitVec.eq_of_toNat_eq
    rw [extractAll_lane, if_neg (by omega)]
    rfl
  word_selector h := absurd (extractAll_word k w) h

theorem consumedCount_le_count (k : Selector) (n : Nat) : consumedCount k n ≤ (layoutAt k).count :=
  Nat.min_le_left _ _

/-- RES.count has room for the number of values consumed (R27). -/
theorem consumedCount_toNat (k : Selector) (n : Nat) :
    (BitVec.ofNat 5 (consumedCount k n)).toNat = consumedCount k n := by
  have hle := consumedCount_le_count k n
  have h28 := layout_count_le k
  rw [BitVec.toNat_ofNat, Nat.mod_eq_of_lt (by omega)]

/-- The layout that PACK and SELECT choose fits the window. -/
theorem windowFits_of_chooseLayout {n : Count} {lanes : Lanes} {k : Selector}
    (h : chooseLayout n lanes = .ok k) : windowFits k lanes n.toNat := by
  rcases chooseLayout_cases n lanes with
    ⟨-, he⟩ | ⟨-, he⟩ | ⟨-, -, -, he⟩ | ⟨-, -, -, k', ⟨hfit, -⟩, he⟩
  · simp [he] at h
  · simp [he] at h
  · simp [he] at h
  · obtain rfl : k' = k := by simpa [he] using h
    exact hfit

/-- PACK's data (R88): the word carries the selector of the layout it was packed with (R96). -/
theorem pack_results_legal {n : Count} {lanes : Lanes} {k : Selector}
    (h : chooseLayout n lanes = .ok k) :
    Results.Legal
      { sel := k
        count := BitVec.ofNat 5 (consumedCount k n.toNat)
        word := insertSlots k lanes (consumedCount k n.toNat) } := by
  have hle := consumedCount_le_count k n.toNat
  refine Results.legal_of_no_lanes (by rwa [consumedCount_toNat]) fun _ => ?_
  exact insertSlots_selector k lanes hle
    fun _ hj => windowFits_lane k lanes (windowFits_of_chooseLayout h) hj

/-- SELECT's data (R89): as PACK's, with RES.word 0. -/
theorem select_results_legal (n : Nat) (k : Selector) :
    Results.Legal { sel := k, count := BitVec.ofNat 5 (consumedCount k n) } :=
  Results.legal_of_no_lanes (by rw [consumedCount_toNat]; exact consumedCount_le_count k n)
    fun h => absurd rfl h

/-! ### Completions -/

theorem Status.code_le_five (code : Status) : code.code.toNat ≤ 5 := by
  cases code <;> decide

/-- A completion with legal data, and none after an error, leaves legal result registers. -/
theorem complete_legalResults (s : State) {code : Status} {r : Results}
    (herr : code ≠ .ok → r = {}) (hr : r.Legal) : (s.complete code r).LegalResults where
  status_legal := code.code_le_five
  error_clears h := by
    have hne : code ≠ .ok := fun hok => h (by rw [hok]; rfl)
    obtain ⟨-, -, hclear⟩ := raiseStatus_completedError s code
    rw [herr hne]
    exact hclear
  count_bound := hr.count_bound
  lane_fits := hr.lane_fits
  lane_beyond := hr.lane_beyond
  word_selector := hr.word_selector

/-- A completion writes every result register, from the code and the data alone (R17). -/
theorem complete_sameResults (s t : State) (code : Status) (r : Results) :
    (s.complete code r).sameResults (t.complete code r) := by
  simp [State.sameResults]

/-- An instruction has one completion, legal and the same from every state (R17): the state passed to
`exec` only supplies what a completion leaves unchanged. -/
theorem exec_completion (i : Instr) :
    ∃ code r, (code ≠ .ok → r = {}) ∧ r.Legal ∧ ∀ s, exec i s = .next (s.complete code r) := by
  cases i with
  | validate n lanes =>
    simp only [exec, execValidate]
    split
    · exact ⟨.badCount, {}, fun _ => rfl, Results.legal_zero, fun _ => rfl⟩
    split
    · exact ⟨.valueOutOfRange, {}, fun _ => rfl, Results.legal_zero, fun _ => rfl⟩
    · exact ⟨.ok, {}, fun _ => rfl, Results.legal_zero, fun _ => rfl⟩
  | pack n lanes =>
    simp only [exec, execPack]
    cases h : chooseLayout n lanes with
    | error e => exact ⟨e, {}, fun _ => rfl, Results.legal_zero, fun _ => rfl⟩
    | ok k => exact ⟨.ok, _, fun h => absurd rfl h, pack_results_legal h, fun _ => rfl⟩
  | select n lanes =>
    simp only [exec, execSelect]
    cases chooseLayout n lanes with
    | error e => exact ⟨e, {}, fun _ => rfl, Results.legal_zero, fun _ => rfl⟩
    | ok k => exact ⟨.ok, _, fun h => absurd rfl h, select_results_legal n.toNat k, fun _ => rfl⟩
  | _ => exact ⟨.ok, _, fun h => absurd rfl h, extractAll_legal _ _, fun _ => rfl⟩

/-! ### A presented input -/

/-- An input that completes at one state completes at every state of the same IN_W, in the same way
(R17); a reserved operation's completion is among them (R61). -/
theorem runInput_completion {x : Input} {s t : State} (h : runInput x s = .next t) :
    ∃ code r, (code ≠ .ok → r = {}) ∧ r.Legal
      ∧ ∀ s' : State, s'.inW = s.inW → runInput x s' = .next (s'.complete code r) := by
  unfold runInput at h ⊢
  cases hd : decode x with
  | error e =>
    cases e
    exact ⟨.illegalCommand, {}, fun _ => rfl, Results.legal_zero, fun _ _ => rfl⟩
  | ok i =>
    cases hw : i.wellFormed s.inW with
    | false => simp [hd, hw] at h
    | true =>
      obtain ⟨code, r, herr, hr, hexec⟩ := exec_completion i
      exact ⟨code, r, herr, hr, fun s' hs' => by simp [hs', hw, hexec]⟩

/-! ### Host reads -/

theorem hostRead_early {r : ResultReg} {s : State} (hv : s.valid = false) (hr : r ≠ .valid) :
    hostRead r s = .fault (.readBeforeCommand r) := by
  simp [hostRead, hv, hr]

theorem hostRead_validReg (s : State) :
    hostRead .valid s = .next (if s.valid then 1#32 else 0#32) := by
  simp [hostRead, State.resultValue]

/-! ### The step, by the host's next action -/

section StepByAction
variable {s : State} {rest : List HostAction}

theorem step_of_nil (h : s.input = []) : step s = .next s := by
  simp [step, h]

theorem step_of_present {x : Input} (h : s.input = .present x :: rest) :
    step s = runInput x { s with input := rest } := by
  simp [step, h, runAction]

theorem step_of_reset (h : s.input = .reset :: rest) :
    step s = .next (State.applyReset { s with input := rest }) := by
  simp [step, h, runAction]

theorem step_of_read_answered {r : ResultReg} (h : s.input = .read r :: rest)
    (hv : s.valid = true ∨ r = .valid) : step s = .next { s with input := rest } := by
  have hread : hostRead r { s with input := rest } = .next (State.resultValue s r) := by
    rcases hv with hv | rfl
    · exact hostRead_of_valid r _ hv
    · exact hostRead_validReg _
  simp [step, h, runAction, hread]

theorem step_of_read_early {r : ResultReg} (h : s.input = .read r :: rest)
    (hv : s.valid = false) (hr : r ≠ .valid) : step s = .fault (.readBeforeCommand r) := by
  have hread : hostRead r { s with input := rest } = .fault (.readBeforeCommand r) :=
    hostRead_early hv hr
  simp [step, h, runAction, hread]

/-- A lane that an IN_W-bit lane cannot hold stops the step (R20; log 3). -/
theorem step_of_present_tooWide {x : Input} {i : Instr} (h : s.input = .present x :: rest)
    (hd : decode x = .ok i) (hw : i.wellFormed s.inW = false) : step s = .refused .laneTooWide := by
  simp [step_of_present h, runInput, hd, hw]

end StepByAction

/-- A step goes on but for two stops: a presented lane too wide for the block, and an early read. -/
theorem step_next_or_stop (s : State) :
    (∃ t, step s = .next t)
    ∨ (∃ x rest i, s.input = .present x :: rest ∧ decode x = .ok i ∧ i.wellFormed s.inW = false
        ∧ step s = .refused .laneTooWide)
    ∨ (∃ r rest, s.input = .read r :: rest ∧ s.valid = false ∧ r ≠ .valid
        ∧ step s = .fault (.readBeforeCommand r)) := by
  cases hin : s.input with
  | nil => exact .inl ⟨s, step_of_nil hin⟩
  | cons a rest =>
    cases a with
    | present x =>
      rcases runInput_cases x { s with input := rest } with
        ⟨e, -, he⟩ | ⟨i, -, -, he⟩ | ⟨i, hd, hw, -⟩
      · exact .inl ⟨_, (step_of_present hin).trans he⟩
      · obtain ⟨code, r, -, -, hexec⟩ := exec_completion i
        exact .inl ⟨_, ((step_of_present hin).trans he).trans (hexec _)⟩
      · exact .inr (.inl ⟨x, rest, i, rfl, hd, hw, step_of_present_tooWide hin hd hw⟩)
    | read r =>
      rcases hostRead_cases r s with ⟨hv, -⟩ | ⟨hv, hr, -⟩
      · exact .inl ⟨_, step_of_read_answered hin hv⟩
      · exact .inr (.inr ⟨r, rest, rfl, hv, hr, step_of_read_early hin hv hr⟩)
    | reset => exact .inl ⟨_, step_of_reset hin⟩

/-- What a step that goes on leaves in RES.valid, by the host's action (R23). -/
theorem step_valid {s t : State} (h : step s = .next t) :
    (∀ x rest, s.input = .present x :: rest → t.valid = true)
    ∧ (∀ rest, s.input = .reset :: rest → t.valid = false)
    ∧ ((∀ x rest, s.input ≠ .present x :: rest) → (∀ rest, s.input ≠ .reset :: rest) →
        t.valid = s.valid) := by
  rcases step_cases h with ⟨hin, rfl⟩ | ⟨x, rest, code, r, hin, rfl, -⟩ | ⟨reg, rest, hin, -, rfl⟩
    | ⟨rest, hin, rfl⟩ <;> simp [hin]

/-! ### The invariant -/

/-- The invariant speaks of the result registers alone. -/
theorem State.Inv.of_sameResults {s t : State} (hs : s.Inv) (h : s.sameResults t) : t.Inv := by
  obtain ⟨hvalid, hstatus, hsel, hcount, hword, hlane⟩ := h
  intro hv
  have hl := hs (hvalid.trans hv)
  constructor
  · exact hstatus ▸ hl.status_legal
  · simpa [State.dataCleared, hstatus, hsel, hcount, hword, hlane] using hl.error_clears
  · simpa [hsel, hcount] using hl.count_bound
  · simpa [hsel, hlane] using hl.lane_fits
  · simpa [hcount, hlane] using hl.lane_beyond
  · simpa [hsel, hword, hlane] using hl.word_selector

theorem inv_of_not_valid {s : State} (h : s.valid = false) : s.Inv :=
  fun hv => absurd hv (by simp [h])

/-! ### The statements -/

/-- Settles O11: a presented input leaves a legal completion, a reset leaves RES.valid at 0, and any
other step leaves the result registers as they were. -/
theorem everyStepKeepsResultsLegal : Obligations.EveryStepKeepsResultsLegal := by
  intro s t hs h
  rcases step_cases h with ⟨-, rfl⟩ | ⟨x, rest, -, -, hin, -, -⟩ | ⟨reg, rest, -, -, rfl⟩
    | ⟨rest, -, rfl⟩
  · exact hs
  · rw [step_of_present hin] at h
    obtain ⟨code, r, herr, hr, hrun⟩ := runInput_completion h
    rw [hrun _ rfl] at h
    cases h
    exact fun _ => complete_legalResults _ herr hr
  · exact hs.of_sameResults ⟨rfl, rfl, rfl, rfl, rfl, rfl⟩
  · exact inv_of_not_valid (applyReset_valid _)

/-- Settles O2: reset, completion, step and host read, each by its own lemma. -/
theorem validFromFirstCompletion : Obligations.ValidFromFirstCompletion := by
  refine ⟨fun _ => rfl, fun i s => ?_, fun s t => step_valid, fun s r hr => ?_⟩
  · obtain ⟨code, r, hexec, -⟩ := exec_completes i s
    exact ⟨_, hexec, complete_valid s code r⟩
  · rcases hostRead_cases r s with ⟨hv, hread⟩ | ⟨hv, -, hread⟩ <;> rw [hread]
    · simpa [hr] using hv
    · simp [hv]

/-- Settles O6: of the two ways a step can stop, the refusal is the lane too wide. -/
theorem stepRefusesOnlyTooWideLanes : Obligations.StepRefusesOnlyTooWideLanes := by
  intro s r
  constructor
  · intro h
    rcases step_next_or_stop s with
      ⟨t, ht⟩ | ⟨x, rest, i, hin, hd, hw, ht⟩ | ⟨reg, rest, -, -, -, ht⟩
      <;> rw [ht] at h <;> cases h
    exact ⟨rfl, x, rest, i, hin, hd, hw⟩
  · rintro ⟨rfl, x, rest, i, hin, hd, hw⟩
    exact step_of_present_tooWide hin hd hw

/-- Settles O7: of the two ways a step can stop, the fault is the early read. -/
theorem stepFaultsOnlyOnEarlyRead : Obligations.StepFaultsOnlyOnEarlyRead := by
  intro s f
  constructor
  · intro h
    rcases step_next_or_stop s with
      ⟨t, ht⟩ | ⟨x, rest, i, -, -, -, ht⟩ | ⟨reg, rest, hin, hv, hreg, ht⟩
      <;> rw [ht] at h <;> cases h
    exact ⟨reg, rest, hin, hv, hreg, rfl⟩
  · rintro ⟨reg, rest, hin, hv, hreg, rfl⟩
    exact step_of_read_early hin hv hreg

/-- Settles O8: both states run the input's one completion. -/
theorem completionIgnoresEarlierState : Obligations.CompletionIgnoresEarlierState := by
  intro s₁ s₂ t₁ x rest₁ rest₂ hin₁ hin₂ hinW h
  rw [step_of_present hin₁] at h
  obtain ⟨code, r, -, -, hrun⟩ := runInput_completion h
  rw [hrun _ rfl] at h
  cases h
  rw [step_of_present hin₂]
  exact ⟨_, hrun _ hinW.symm, complete_sameResults _ _ code r⟩

/-- Settles O1: the reset state is `State.applyReset`'s. -/
theorem resetInvalidatesResults : Obligations.ResetInvalidatesResults := by
  intro s rest hin
  have hv := applyReset_valid { s with input := rest }
  exact ⟨_, step_of_reset hin, hv, rfl, rfl, rfl, by simp [hostRead_validReg],
    fun _ hr => hostRead_early hv hr⟩

/-- Settles O3: every register by its content, then the step of a read that is answered. -/
theorem readsGiveRegistersAndChangeNothing : Obligations.ReadsGiveRegistersAndChangeNothing := by
  intro s hv
  have hread (r : ResultReg) : hostRead r s = .next (s.resultValue r) := hostRead_of_valid r s hv
  refine ⟨⟨_, hread .status, ?_⟩, ⟨_, hread .sel, ?_⟩, ⟨_, hread .count, ?_⟩, hread .word,
    fun j => hread (.lane j), ?_, fun r rest hin => step_of_read_answered hin (.inl hv)⟩
  · exact BitVec.toNat_setWidth_of_le (by decide)
  · exact BitVec.toNat_setWidth_of_le (by decide)
  · exact BitVec.toNat_setWidth_of_le (by decide)
  · rw [hostRead_validReg, hv]; rfl

/-- Settles O4: the branch of `runInput` for a decoded, well-formed instruction. -/
theorem stepRunsDecodedInstruction : Obligations.StepRunsDecodedInstruction := by
  intro s x rest i hin hd hw
  rw [step_of_present hin]
  simp [runInput, hd, hw]

/-- Settles O10: RES.valid is 0 at reset, so nothing is asked of the other registers. -/
theorem invariantHoldsAtReset : Obligations.InvariantHoldsAtReset :=
  ⟨inv_of_not_valid rfl, fun _ => inv_of_not_valid rfl⟩

end Sys2Proof.Machine
end

section
/-!
Proofs of the statements on what the host exchanges with the block (20_memory.md): the order of its
actions (R42, R43), the bytes of a word (R36), and the buffer that COMPRESS appends to (R38). First the
byte order and the two loops of COMPRESS on representable values, each said once; then the statements.
-/

namespace Sys2Proof.Machine

/-! ### The bytes of a word -/

@[simp] theorem le4_length (w : Word) : (le4 w).length = 4 := rfl

/-- Eight bits of a word as a number. -/
theorem wordByte_toNat (w : Word) (i : Nat) :
    (w.extractLsb' i 8).toNat = w.toNat / 2 ^ i % 256 := by
  rw [BitVec.extractLsb'_toNat, Nat.shiftRight_eq_div_pow]

/-- The top byte needs no remainder: nothing stands above it. -/
theorem wordByte_top_toNat (w : Word) : (w.extractLsb' 24 8).toNat = w.toNat / 16777216 := by
  rw [wordByte_toNat]
  omega

/-- The bytes of a word as numbers, least significant first (R36). -/
theorem le4_toNat (w : Word) : (le4 w).map BitVec.toNat
    = [w.toNat % 256, w.toNat / 256 % 256, w.toNat / 65536 % 256, w.toNat / 16777216] := by
  simp only [le4, List.map_cons, List.map_nil, wordByte_top_toNat]
  simp only [wordByte_toNat, pow_zero, Nat.div_one, Nat.reducePow]

/-- A read beyond the first bytes is the read of the bytes after them. -/
theorem memRead_append_add (before bytes : List Byte) (addr : Nat) :
    memRead (before ++ bytes) (before.length + addr) = memRead bytes addr := by
  have hbyte (i : Nat) :
      (before ++ bytes).getD (before.length + addr + i) 0#8 = bytes.getD (addr + i) 0#8 := by
    rw [List.getD_append_right _ _ _ _ (by omega)]
    congr 1
    omega
  have hbyte0 : (before ++ bytes).getD (before.length + addr) 0#8 = bytes.getD addr 0#8 := hbyte 0
  rw [memRead, hbyte 3, hbyte 2, hbyte 1, hbyte0, memRead]

/-- The four bytes read as one number in base 256 (R36). -/
theorem memRead_four_toNat (b0 b1 b2 b3 : Byte) (after : List Byte) :
    (memRead (b0 :: b1 :: b2 :: b3 :: after) 0).toNat
      = b0.toNat + b1.toNat * 256 + b2.toNat * 65536 + b3.toNat * 16777216 := by
  have h0 := b0.isLt
  have h1 := b1.isLt
  have h2 := b2.isLt
  simp only [memRead, List.getD_cons_zero, List.getD_cons_succ, BitVec.toNat_append]
  rw [← Nat.shiftLeft_add_eq_or_of_lt h0, ← Nat.shiftLeft_add_eq_or_of_lt h1,
    ← Nat.shiftLeft_add_eq_or_of_lt h2]
  omega

/-- A word written least significant byte first reads back, whatever bytes follow (R36). -/
theorem memRead_le4_append (w : Word) (after : List Byte) : memRead (le4 w ++ after) 0 = w := by
  apply BitVec.eq_of_toNat_eq
  rw [le4, List.cons_append, List.cons_append, List.cons_append, List.cons_append,
    memRead_four_toNat, wordByte_toNat, wordByte_toNat, wordByte_toNat, wordByte_top_toNat]
  omega

/-! ### What stays outside the result registers, and the count as the host reads it -/

theorem State.sameOutside.refl (s : State) : s.sameOutside s := ⟨rfl, rfl, rfl⟩

theorem State.sameOutside.trans {s t u : State} (h : s.sameOutside t) (h' : t.sameOutside u) :
    s.sameOutside u := by
  obtain ⟨hinW, hinput, hdraws⟩ := h
  obtain ⟨hinW', hinput', hdraws'⟩ := h'
  exact ⟨hinW.trans hinW', hinput.trans hinput', hdraws.trans hdraws'⟩

/-- The host's zero extension keeps the number in RES.count (log 19). -/
theorem resultValue_count_toNat (s : State) : (s.resultValue .count).toNat = s.count.toNat :=
  BitVec.toNat_setWidth_of_le (by decide)

/-! ### Phase 1 of COMPRESS on representable values -/

section Representable
variable {values : List Lane} (hr : representable values)
include hr

theorem windowLanes_representable (k : Nat) (j : Fin 28) :
    (windowLanes values k)[j].toNat ≤ 268435455 :=
  Nat.le_of_lt_succ <| windowLanes_bound (by decide) (fun v hv => Nat.lt_succ_of_le (hr v hv)) k j

/-- VALIDATE accepts every window of a representable input (R81). -/
theorem execValidate_representable (k : Nat) (s : State) :
    execValidate (windowCount values k) (windowLanes values k) s = .next (s.completeOk {}) := by
  have hn := windowCount_toNat values k
  have hle : (windowCount values k).toNat ≤ 28 := by omega
  have hcount : countTooLarge (windowCount values k) = false := by
    simpa [countTooLarge] using hle
  have hrange : outOfRange (windowLanes values k) (windowCount values k).toNat = false :=
    (outOfRange_eq_false_iff _ hle).2 fun j _ => windowLanes_representable hr k j
  simp [execValidate, hcount, hrange]

/-- The loop of R103 accepts a representable input. -/
theorem validateLoop_representable {fuel k : Nat} {s : State} (hd : fitDomain s.inW values)
    (hfuel : values.length ≤ k + fuel) :
    ∃ t, validateLoop values fuel k s = .next (.ok (), t) ∧ s.sameOutside t := by
  induction fuel generalizing k s with
  | zero => exact ⟨s, by rw [validateLoop, if_neg (by omega)], .refl s⟩
  | succ fuel ih =>
    rw [validateLoop]
    split
    · obtain ⟨t, hloop, hsame⟩ := ih (k := k + 28) (s := s.completeOk {}) hd (by omega)
      refine ⟨t, ?_, hsame⟩
      rw [issue_validate hd, execValidate_representable hr, andThen_next,
        hostRead_of_valid _ _ (completeOk_valid s {}), andThen_next,
        if_neg (by simp [State.resultValue, Status.code])]
      exact hloop
    · exact ⟨s, rfl, .refl s⟩

/-- Phase 1 accepts a representable input at every IN_W (R103). -/
theorem validatePhase_representable {s : State} (hd : fitDomain s.inW values) :
    ∃ t, validatePhase values s = .next (.ok (), t) ∧ s.sameOutside t := by
  have hloop := validateLoop_representable hr hd (Nat.le_add_left values.length 0)
  unfold validatePhase
  split
  · exact ⟨s, rfl, .refl s⟩
  · exact ⟨s, rfl, .refl s⟩
  · exact hloop
  · exact hloop

/-! ### The packing loop on representable values -/

/-- PACK and SELECT find a layout for every window of a representable input that holds a value
(R84, R90). -/
theorem chooseLayout_representable {k : Nat} (hk : k < values.length) :
    ∃ q, firstFit q (windowLanes values k) (windowCount values k).toNat
      ∧ chooseLayout (windowCount values k) (windowLanes values k) = .ok q := by
  have hn := windowCount_toNat values k
  have hfirst := windowLanes_representable hr k 0
  rcases chooseLayout_cases (windowCount values k) (windowLanes values k) with
    ⟨hbad, -⟩ | ⟨hempty, -⟩ | ⟨-, -, hwide, -⟩ | ⟨-, -, -, hchoice⟩
  · omega
  · omega
  · exact absurd hfirst (Nat.not_le_of_lt hwide)
  · exact hchoice

/-- PACK completes normally on such a window and consumes at least one value, in the same way from
every state (R17, R88). -/
theorem execPack_representable {k : Nat} (hk : k < values.length) :
    ∃ r : Results, 1 ≤ r.count.toNat
      ∧ ∀ s, execPack (windowCount values k) (windowLanes values k) s = .next (s.completeOk r) := by
  obtain ⟨q, -, hchoice⟩ := chooseLayout_representable hr hk
  have hn := windowCount_toNat values k
  have hpos := layout_count_pos q
  have hone : 1 ≤ consumedCount q (windowCount values k).toNat := by rw [consumedCount]; omega
  refine ⟨_, ?_, fun s => by rw [execPack, hchoice]⟩
  rwa [consumedCount_toNat]

/-- The loop of R104 on a representable input: the bytes it appends and the state it ends in do not
depend on what the buffer holds. -/
theorem packLoop_representable {fuel k : Nat} {s : State} (hd : fitDomain s.inW values)
    (hfuel : values.length ≤ k + fuel) :
    ∃ bytes t, bytes.length % 4 = 0 ∧ s.sameOutside t
      ∧ ∀ out, packLoop values fuel k out s = .next (out ++ bytes, t) := by
  induction fuel generalizing k s with
  | zero =>
    refine ⟨[], s, rfl, State.sameOutside.refl s, fun out => ?_⟩
    rw [packLoop, if_neg (by omega), List.append_nil]
  | succ fuel ih =>
    by_cases hk : k < values.length
    · obtain ⟨r, hpos, hpack⟩ := execPack_representable hr hk
      obtain ⟨bytes, t, hlen, hsame, hloop⟩ :=
        ih (k := k + r.count.toNat) (s := s.completeOk r) hd (by omega)
      refine ⟨le4 r.word ++ bytes, t, ?_, hsame, fun out => ?_⟩
      · rw [List.length_append, le4_length]; omega
      · have hv := completeOk_valid s r
        rw [packLoop, if_pos hk, issue_pack hd, hpack, andThen_next, hostRead_of_valid _ _ hv,
          andThen_next, hostRead_of_valid _ _ hv, andThen_next, resultValue_count_toNat,
          ← List.append_assoc]
        exact hloop (out ++ le4 r.word)
    · refine ⟨[], s, rfl, State.sameOutside.refl s, fun out => ?_⟩
      rw [packLoop, if_neg hk, List.append_nil]

/-- COMPRESS on a representable input answers Ok and appends a whole number of words, the same for
every buffer (R38, R104). -/
theorem compress_representable {s : State} (hd : fitDomain s.inW values) :
    ∃ bytes t, bytes.length % 4 = 0 ∧ s.sameOutside t
      ∧ ∀ out, compress values out s
          = .next { answer := .ok (), out := out ++ bytes, block := t } := by
  obtain ⟨s₁, hphase, hsame⟩ := validatePhase_representable hr hd
  have hd₁ : fitDomain s₁.inW values := hsame.1 ▸ hd
  obtain ⟨bytes, t, hlen, hsame', hloop⟩ :=
    packLoop_representable hr hd₁ (Nat.le_add_left values.length 0)
  refine ⟨bytes, t, hlen, hsame.trans hsame', fun out => ?_⟩
  simp [compress, hphase, hloop out]

end Representable

/-! ### The statements -/

/-- Settles O47: what `compress_representable` appends to the buffer, it appends to the empty one. -/
theorem compressOnlyAppends : Obligations.CompressOnlyAppends := by
  intro values out s hd hr
  obtain ⟨bytes, t, hlen, -, happend⟩ := compress_representable hr hd
  exact ⟨_, _, happend [], happend out, rfl, rfl, rfl, rfl, hlen⟩

/-- Settles O42: the bytes as numbers, the read behind any bytes, the number of four bytes, and the
selector in the last byte. -/
theorem wordsAreLittleEndian : Obligations.WordsAreLittleEndian := by
  refine ⟨le4_toNat, fun w before after => ?_, fun b0 b1 b2 b3 => memRead_four_toNat b0 b1 b2 b3 [],
    fun w => ⟨_, _, _, _, rfl, ?_⟩⟩
  · rw [List.append_assoc]
    exact (memRead_append_add before _ 0).trans (memRead_le4_append w after)
  · rw [wordByte_top_toNat]
    omega

/-- Settles O5: what a step leaves outside the result registers, by what it did. -/
theorem stepTakesOneActionInOrder : Obligations.StepTakesOneActionInOrder := by
  refine ⟨fun s t h => ?_, fun s => step_of_nil⟩
  rcases step_cases h with ⟨hin, rfl⟩ | ⟨x, rest, code, r, hin, rfl, -⟩ | ⟨reg, rest, hin, -, rfl⟩
    | ⟨rest, hin, rfl⟩
  · exact ⟨by rw [hin]; rfl, rfl, rfl, fun _ _ => ⟨rfl, rfl, rfl, rfl, rfl, rfl⟩⟩
  · exact ⟨by rw [hin]; rfl, rfl, rfl, fun hpresent _ => absurd hin (hpresent x rest)⟩
  · exact ⟨by rw [hin]; rfl, rfl, rfl, fun _ _ => ⟨rfl, rfl, rfl, rfl, rfl, rfl⟩⟩
  · exact ⟨by rw [hin]; rfl, rfl, rfl, fun _ hreset => absurd hin (hreset rest)⟩

/-- Settles O9: the first step leaves the same input next and the same IN_W, and results depend on
nothing else (R17). -/
theorem commandsAreIdempotent : Obligations.CommandsAreIdempotent := by
  intro s t x rest hin h
  obtain ⟨htail, hinW, -, -⟩ := stepTakesOneActionInOrder.1 s t h
  have hnext : t.input = .present x :: rest := by rw [htail, hin]; rfl
  exact completionIgnoresEarlierState s t t x _ rest hin hnext hinW.symm h

end Sys2Proof.Machine
end

section
/-!
Proofs of the statements on the encoding (30_encoding.md): the two formats and their codes (R49, R59 to
R62), the layout table (R54, R55), and the 16 packed words slot by slot (R56, R64 to R79). First the
fields as numbers, the word forms as one family over the selector, and the window commands by their
tests, each said once; then the statements.
-/

namespace Sys2Proof.Machine

/-! ### The fields as numbers -/

/-- Bits 2:0 of the control byte as a number (R59). -/
theorem operationOf_toNat (b : Byte) : (operationOf b).toNat = b.toNat % 8 := by
  rw [operationOf, BitVec.extractLsb'_toNat, Nat.shiftRight_zero]

/-- Bits 7:3 of the control byte as a number (R59). -/
theorem countOf_eq_ofNat (b : Byte) : countOf b = BitVec.ofNat 5 (b.toNat / 8) := by
  apply BitVec.eq_of_toNat_eq
  rw [countOf, BitVec.extractLsb'_toNat, Nat.shiftRight_eq_div_pow, BitVec.toNat_ofNat]

/-- Bits 31:28 of a word as a number (R49). -/
theorem selectorOf_toNat (w : Word) : (selectorOf w).toNat = w.toNat / 2 ^ 28 := by
  rw [selectorOf, BitVec.extractLsb'_toNat, Nat.shiftRight_eq_div_pow]
  omega

/-- A packed word as a number: the selector stands above the payload (R49). -/
theorem packedWord_toNat (k : Selector) (p : Payload) :
    (packedWord k p).toNat = k.toNat * 2 ^ 28 + p.toNat := by
  have hk := k.isLt
  have hp := p.isLt
  rw [packedWord, BitVec.toNat_or, BitVec.toNat_shiftLeft, BitVec.toNat_setWidth,
    BitVec.toNat_setWidth, Nat.mod_eq_of_lt (by omega : k.toNat < 2 ^ 32),
    Nat.mod_eq_of_lt (by omega : p.toNat < 2 ^ 32), Nat.shiftLeft_eq,
    Nat.mod_eq_of_lt (by omega : k.toNat * 2 ^ 28 < 2 ^ 32), ← Nat.shiftLeft_eq,
    ← Nat.shiftLeft_add_eq_or_of_lt hp]

/-- A control byte is put together again from its count and its operation code's number. -/
theorem controlByte_of_operation {b : Byte} {op : Operation}
    (h : (operationOf b).toNat = op.toNat) : controlByte (countOf b) op = b := by
  rw [← BitVec.eq_of_toNat_eq h]
  exact controlByte_fields b

/-! ### The packed words, as one family over the selector -/

theorem encode_wordForm (k : Selector) (p : Payload) :
    encode (wordForm k p) = .packed (packedWord k p) := by
  revert k
  exact forall_selector fun i => by fin_cases i <;> rfl

theorem exec_wordForm (k : Selector) (p : Payload) (s : State) :
    exec (wordForm k p) s = .next (s.completeOk (extractAll k (packedWord k p))) := by
  revert k
  exact forall_selector fun i => by fin_cases i <;> rfl

/-- Every block can be given every packed word (R56). -/
theorem wellFormed_wordForm (k : Selector) (p : Payload) (w : InputWidth) :
    (wordForm k p).wellFormed w = true := by
  revert k
  exact forall_selector fun i => by fin_cases i <;> rfl

theorem decode_packedWord (k : Selector) (p : Payload) :
    decode (.packed (packedWord k p)) = .ok (wordForm k p) := by
  rw [decode, decodeWord, selectorOf_packedWord, payloadOf_packedWord]

/-! ### A presented input -/

/-- A rejected command completes with IllegalCommand (R61). -/
theorem runInput_of_reject {x : Input} {e : Reject} (s : State) (h : decode x = .error e) :
    runInput x s = .next (s.raiseStatus .illegalCommand) := by
  cases e
  rw [runInput, h]
  rfl

/-- A packed word presented on its own runs as its extraction (R98; log 6). -/
theorem runInput_packed (w : Word) (s : State) :
    runInput (.packed w) s = .next (s.completeOk (extractAll (selectorOf w) w)) := by
  have hd : decode (.packed w) = .ok (wordForm (selectorOf w) (payloadOf w)) := rfl
  rw [runInput, hd]
  simp only [wellFormed_wordForm, if_true, exec_wordForm, packedWord_fields]

/-- UNPACK of a word runs as the same extraction, with any n (R62, R98). -/
theorem runInput_encode_unpack (n : Count) (w : Word) (s : State) :
    runInput (encode (.unpack n w)) s = .next (s.completeOk (extractAll (selectorOf w) w)) :=
  issue_unpack n w s

/-! ### The window commands, by their tests -/

section Arms
variable (n : Count) (lanes : Lanes) (s : State)

theorem exec_validate : exec (.validate n lanes) s = execValidate n lanes s := rfl
theorem exec_pack : exec (.pack n lanes) s = execPack n lanes s := rfl
theorem exec_select : exec (.select n lanes) s = execSelect n lanes s := rfl

end Arms

/-- Everything VALIDATE can do, in the order of R122. -/
theorem exec_validate_cases (n : Count) (lanes : Lanes) (s : State) :
    (28 < n.toNat ∧ exec (.validate n lanes) s = .next (s.raiseStatus .badCount))
    ∨ (n.toNat ≤ 28 ∧ outOfRange lanes n.toNat = true
        ∧ exec (.validate n lanes) s = .next (s.raiseStatus .valueOutOfRange))
    ∨ (n.toNat ≤ 28 ∧ outOfRange lanes n.toNat = false
        ∧ exec (.validate n lanes) s = .next (s.completeOk {})) := by
  rw [exec_validate, execValidate]
  by_cases hbad : 28 < n.toNat
  · exact .inl ⟨hbad, by rw [if_pos ((countTooLarge_iff n).2 hbad)]⟩
  · rw [if_neg (mt (countTooLarge_iff n).1 hbad)]
    cases hrange : outOfRange lanes n.toNat with
    | true => exact .inr (.inl ⟨by omega, rfl, rfl⟩)
    | false => exact .inr (.inr ⟨by omega, rfl, rfl⟩)

section WindowTests
variable {n : Count} {lanes : Lanes}

theorem chooseLayout_of_badCount (h : 28 < n.toNat) : chooseLayout n lanes = .error .badCount := by
  rw [chooseLayout, if_pos ((countTooLarge_iff n).2 h)]

theorem chooseLayout_of_empty : chooseLayout 0#5 lanes = .error .emptyWindow := rfl

theorem chooseLayout_ne_badCount (h : n.toNat ≤ 28) :
    chooseLayout n lanes ≠ .error .badCount := by
  rcases chooseLayout_cases n lanes with ⟨hbad, -⟩ | ⟨-, he⟩ | ⟨-, -, -, he⟩ | ⟨-, -, -, k, -, he⟩
  · omega
  all_goals simp [he]

variable {e : Status} {k : Selector} (s : State)

theorem exec_pack_of_error (h : chooseLayout n lanes = .error e) :
    exec (.pack n lanes) s = .next (s.raiseStatus e) := by
  rw [exec_pack, execPack, h]

theorem exec_select_of_error (h : chooseLayout n lanes = .error e) :
    exec (.select n lanes) s = .next (s.raiseStatus e) := by
  rw [exec_select, execSelect, h]

theorem exec_pack_of_ok (h : chooseLayout n lanes = .ok k) :
    exec (.pack n lanes) s = .next (s.completeOk
      { sel := k
        count := BitVec.ofNat 5 (consumedCount k n.toNat)
        word := insertSlots k lanes (consumedCount k n.toNat) }) := by
  rw [exec_pack, execPack, h]

theorem exec_select_of_ok (h : chooseLayout n lanes = .ok k) :
    exec (.select n lanes) s = .next (s.completeOk
      { sel := k, count := BitVec.ofNat 5 (consumedCount k n.toNat) }) := by
  rw [exec_select, execSelect, h]

end WindowTests

theorem raiseStatus_status_ne_badCount (s : State) {e : Status} (h : e ≠ .badCount) :
    (s.raiseStatus e).status ≠ 4#3 := by
  rw [raiseStatus_status]
  cases e with
  | badCount => exact absurd rfl h
  | _ => decide

theorem completeOk_status_ne_badCount (s : State) (r : Results) : (s.completeOk r).status ≠ 4#3 := by
  rw [completeOk_status]
  decide

/-- A count of 0 to 28 is legal for every window command (R62). -/
theorem window_commands_ne_badCount {n : Count} (h : n.toNat ≤ 28) (lanes : Lanes) (s : State) :
    (∃ t, exec (.validate n lanes) s = .next t ∧ t.status ≠ 4#3)
    ∧ (∃ t, exec (.pack n lanes) s = .next t ∧ t.status ≠ 4#3)
    ∧ (∃ t, exec (.select n lanes) s = .next t ∧ t.status ≠ 4#3) := by
  constructor
  · rcases exec_validate_cases n lanes s with ⟨hbad, -⟩ | ⟨-, -, he⟩ | ⟨-, -, he⟩
    · omega
    · exact ⟨_, he, raiseStatus_status_ne_badCount s (by decide)⟩
    · exact ⟨_, he, completeOk_status_ne_badCount s _⟩
  · cases hc : chooseLayout n lanes with
    | error e =>
      have hne : (s.raiseStatus e).status ≠ 4#3 := by
        apply raiseStatus_status_ne_badCount
        rintro rfl
        exact chooseLayout_ne_badCount h hc
      exact ⟨⟨_, exec_pack_of_error s hc, hne⟩, _, exec_select_of_error s hc, hne⟩
    | ok k =>
      exact ⟨⟨_, exec_pack_of_ok s hc, completeOk_status_ne_badCount s _⟩,
        _, exec_select_of_ok s hc, completeOk_status_ne_badCount s _⟩

/-! ### The slots of a layout as a partition of the payload -/

/-- The last slot ends at the payload's end (R54, R55). -/
theorem layout_off_count (k : Selector) : (layoutAt k).off (layoutAt k).count = 28 := by
  rw [Layout.off, ← layout_widths_length, List.take_length, layout_widths_sum]

/-- Every bit below the end of the first `c` slots is in one of them: no gap (R55). -/
theorem slot_of_bit (k : Selector) (b : Nat) {c : Nat} (hc : c ≤ (layoutAt k).count)
    (hb : b < (layoutAt k).off c) :
    ∃ j < c, (layoutAt k).off j ≤ b ∧ b < (layoutAt k).off j + (layoutAt k).width j := by
  induction c with
  | zero => simp at hb
  | succ c ih =>
    rw [layout_off_succ k hc] at hb
    by_cases hlow : b < (layoutAt k).off c
    · obtain ⟨j, hj, hbit⟩ := ih (by omega) hlow
      exact ⟨j, by omega, hbit⟩
    · exact ⟨c, by omega, by omega, hb⟩

/-- A slot ends before any later slot begins: no overlap (R55). -/
theorem slot_end_le_off (k : Selector) {i j : Nat} (hi : i < (layoutAt k).count) (hij : i < j) :
    (layoutAt k).off i + (layoutAt k).width i ≤ (layoutAt k).off j := by
  rw [← layout_off_succ k hi]
  exact layout_off_mono _ hij

/-! ### The slots of a packed word -/

/-- A slot lies within the payload, so the selector above it does not show in its number (R55). -/
theorem slotNumber_packedWord (k : Selector) (p : Payload) {j : Nat} (hj : j < (layoutAt k).count) :
    slotNumber (packedWord k p) k j
      = p.toNat / 2 ^ (layoutAt k).off j % 2 ^ (layoutAt k).width j := by
  obtain ⟨d, hd⟩ := Nat.exists_eq_add_of_le (layout_slot_end_le k hj)
  have hpow : 2 ^ 28 = 2 ^ (layoutAt k).off j * 2 ^ (layoutAt k).width j * 2 ^ d := by
    rw [← pow_add, ← pow_add, ← hd]
  have hword : (packedWord k p).toNat = p.toNat
      + 2 ^ (layoutAt k).off j * (2 ^ (layoutAt k).width j * (k.toNat * 2 ^ d)) := by
    rw [packedWord_toNat, hpow]
    ring
  rw [slotNumber, hword, Nat.add_mul_div_left _ _ (Nat.two_pow_pos _), Nat.add_mul_mod_self_left]

/-- The registers after an extraction, for slots given as numbers (R98). -/
theorem completeOk_extractAll_holdsSlots (s : State) {k : Selector} {w : Word} {c : Nat}
    {slot : Nat → Nat} (hc : (layoutAt k).count = c) (hslot : ∀ j < c, slotNumber w k j = slot j) :
    (s.completeOk (extractAll k w)).holdsSlots k c slot := by
  refine ⟨⟨rfl, rfl⟩, rfl, (extractAll_count k w).trans hc, rfl, fun j => ?_⟩
  rw [completeOk_lane, extractAll_lane, hc]
  split
  · exact hslot j.val ‹_›
  · rfl

/-- A packed word of layout `k`, for slots whose offset and width are written out as `bits`: what
R64 to R79 list for each layout is then a fact about the layout table alone. -/
theorem exec_wordForm_holdsSlots (k : Selector) (p : Payload) (s : State) {c : Nat}
    {slot : Nat → Nat} (bits : Nat → Nat × Nat) (hc : (layoutAt k).count = c)
    (hbits : ∀ j < c, ((layoutAt k).off j, (layoutAt k).width j) = bits j)
    (hslot : ∀ j, p.toNat / 2 ^ (bits j).1 % 2 ^ (bits j).2 = slot j) :
    ∃ t, exec (wordForm k p) s = .next t ∧ s.sameOutside t ∧ t.holdsSlots k c slot := by
  refine ⟨_, exec_wordForm k p s, ⟨rfl, rfl, rfl⟩, completeOk_extractAll_holdsSlots s hc ?_⟩
  intro j hj
  rw [slotNumber_packedWord k p (hc ▸ hj), ← hslot j, ← hbits j hj]

/-! ### The statements -/

/-- Settles O12: a command by its operation code, a packed word by its selector. -/
theorem decodeInvertsEncode : Obligations.DecodeInvertsEncode := by
  intro i
  cases i with
  | validate n lanes => exact decodeCommand_validate n lanes _
  | pack n lanes => exact decodeCommand_pack n lanes _
  | select n lanes => exact decodeCommand_select n lanes _
  | unpack n word => exact decodeCommand_unpack n _ word
  | _ => exact decode_packedWord _ _

/-- Settles O13: a word, and the control byte of each operation, is put together again from its
fields. -/
theorem encodeInvertsDecode : Obligations.EncodeInvertsDecode := by
  constructor
  · intro w i h
    cases h
    rw [decodeWord, encode_wordForm, packedWord_fields]
  · intro c i h
    have hop := operationOf_toNat c.ctrl
    change decodeCommand c = .ok i at h
    rcases decodeCommand_cases c with ⟨h0, hd⟩ | ⟨h1, hd⟩ | ⟨h2, hd⟩ | ⟨h3, hd⟩ | ⟨-, hd⟩
      <;> rw [hd] at h <;> cases h
    · exact ⟨_, rfl, controlByte_of_operation h0, fun _ => rfl, fun h => by omega⟩
    · exact ⟨_, rfl, controlByte_of_operation h1, fun _ => rfl, fun h => by omega⟩
    · exact ⟨_, rfl, controlByte_of_operation h2, fun _ => rfl, fun h => by omega⟩
    · exact ⟨_, rfl, controlByte_of_operation h3, fun h => by omega, fun _ => rfl⟩

/-- Settles O19: BadCount, the legal counts, the empty window, UNPACK's ignored count, its encoding. -/
theorem countFieldMeaning : Obligations.CountFieldMeaning := by
  refine ⟨fun n lanes s h => ?badCount, fun n lanes s h => window_commands_ne_badCount h lanes s,
    fun lanes s => ?emptyWindow, fun _ _ _ _ => rfl, fun w => ⟨_, rfl, rfl⟩⟩
  case badCount =>
    have hraise := raiseStatus_completedError s .badCount
    have hc := chooseLayout_of_badCount (lanes := lanes) h
    refine ⟨?_, ⟨_, exec_pack_of_error s hc, hraise⟩, ⟨_, exec_select_of_error s hc, hraise⟩⟩
    rcases exec_validate_cases n lanes s with ⟨-, he⟩ | ⟨hle, -⟩ | ⟨hle, -⟩
    · exact ⟨_, he, hraise⟩
    · omega
    · omega
  case emptyWindow =>
    have hraise := raiseStatus_completedError s .emptyWindow
    have hc := chooseLayout_of_empty (lanes := lanes)
    exact ⟨⟨_, exec_pack_of_error s hc, hraise⟩, ⟨_, exec_select_of_error s hc, hraise⟩,
      _, rfl, rfl, rfl⟩

/-- Settles O31: offsets and widths of layouts 0 to 3, read from the table (R64 to R67). -/
theorem wordLayouts0To3ReadTheirSlots : Obligations.WordLayouts0To3ReadTheirSlots := by
  refine fun p s => ⟨?layout0, ?layout1, ?layout2, ?layout3⟩
  case layout0 =>
    exact exec_wordForm_holdsSlots 0#4 p s (fun j => (j, 1)) rfl (by decide) fun _ => rfl
  case layout1 =>
    refine exec_wordForm_holdsSlots 1#4 p s
      (fun j => if j < 7 then (2 * j, 2) else (14 + (j - 7), 1)) rfl (by decide) fun j => ?_
    split <;> rfl
  case layout2 =>
    refine exec_wordForm_holdsSlots 2#4 p s
      (fun j => if j < 7 then (j, 1) else if j < 14 then (7 + 2 * (j - 7), 2)
        else (21 + (j - 14), 1)) rfl (by decide) fun j => ?_
    split
    · rfl
    split <;> rfl
  case layout3 =>
    refine exec_wordForm_holdsSlots 3#4 p s
      (fun j => if j < 14 then (j, 1) else (14 + 2 * (j - 14), 2)) rfl (by decide) fun j => ?_
    split <;> rfl

/-- Settles O32: offsets and widths of layouts 4 to 7, read from the table (R68 to R71). -/
theorem wordLayouts4To7ReadTheirSlots : Obligations.WordLayouts4To7ReadTheirSlots := by
  refine fun p s => ⟨?layout4, ?layout5, ?layout6, ?layout7⟩
  case layout4 =>
    exact exec_wordForm_holdsSlots 4#4 p s (fun j => (2 * j, 2)) rfl (by decide) fun _ => rfl
  case layout5 =>
    refine exec_wordForm_holdsSlots 5#4 p s
      (fun j => if j = 0 then (0, 4) else (4 + 3 * (j - 1), 3)) rfl (by decide) fun j => ?_
    split
    · rw [pow_zero, Nat.div_one]; rfl
    · rfl
  case layout6 =>
    refine exec_wordForm_holdsSlots 6#4 p s
      (fun j => if j = 0 then (0, 3) else if j < 5 then (3 + 4 * (j - 1), 4)
        else (19 + 3 * (j - 5), 3)) rfl (by decide) fun j => ?_
    split
    · rw [pow_zero, Nat.div_one]; rfl
    split <;> rfl
  case layout7 =>
    exact exec_wordForm_holdsSlots 7#4 p s (fun j => (4 * j, 4)) rfl (by decide) fun _ => rfl

/-- Settles O33: offsets and widths of layouts 8 to 11, read from the table (R72 to R75). -/
theorem wordLayouts8To11ReadTheirSlots : Obligations.WordLayouts8To11ReadTheirSlots := by
  refine fun p s => ⟨?layout8, ?layout9, ?layout10, ?layout11⟩
  case layout8 =>
    refine exec_wordForm_holdsSlots 8#4 p s
      (fun j => if j < 4 then (5 * j, 5) else (20 + 4 * (j - 4), 4)) rfl (by decide) fun j => ?_
    split <;> rfl
  case layout9 =>
    refine exec_wordForm_holdsSlots 9#4 p s
      (fun j => if j < 2 then (4 * j, 4) else (8 + 5 * (j - 2), 5)) rfl (by decide) fun j => ?_
    split <;> rfl
  case layout10 =>
    refine exec_wordForm_holdsSlots 10#4 p s
      (fun j => if j < 3 then (6 * j, 6) else (18 + 5 * (j - 3), 5)) rfl (by decide) fun j => ?_
    split <;> rfl
  case layout11 =>
    refine exec_wordForm_holdsSlots 11#4 p s
      (fun j => if j < 2 then (5 * j, 5) else (10 + 6 * (j - 2), 6)) rfl (by decide) fun j => ?_
    split <;> rfl

/-- Settles O34: offsets and widths of layouts 12 to 15, read from the table (R76 to R79). -/
theorem wordLayouts12To15ReadTheirSlots : Obligations.WordLayouts12To15ReadTheirSlots := by
  refine fun p s => ⟨?layout12, ?layout13, ?layout14, ?layout15⟩
  case layout12 =>
    exact exec_wordForm_holdsSlots 12#4 p s (fun j => (7 * j, 7)) rfl (by decide) fun _ => rfl
  case layout13 =>
    refine exec_wordForm_holdsSlots 13#4 p s
      (fun j => if j = 0 then (0, 10) else (10 + 9 * (j - 1), 9)) rfl (by decide) fun j => ?_
    split
    · rw [pow_zero, Nat.div_one]; rfl
    · rfl
  case layout14 =>
    exact exec_wordForm_holdsSlots 14#4 p s (fun j => (14 * j, 14)) rfl (by decide) fun _ => rfl
  case layout15 =>
    refine exec_wordForm_holdsSlots 15#4 p s (fun _ => (0, 28)) rfl (by decide) fun _ => ?_
    rw [pow_zero, Nat.div_one, Nat.mod_eq_of_lt p.isLt]

/-- Settles O36: to UNPACK or on its own, the word runs as the extraction of its selector's layout. -/
theorem everyWordCompletesNormally : Obligations.EveryWordCompletesNormally := by
  intro w x s rest hx hin
  have hrun (s' : State) : runInput x s' = .next (s'.completeOk (extractAll (selectorOf w) w)) := by
    rcases hx with rfl | ⟨n, rfl⟩
    · exact runInput_packed w s'
    · exact runInput_encode_unpack n w s'
  exact ⟨_, (step_of_present hin).trans (hrun _), ⟨rfl, rfl⟩, selectorOf_toNat w,
    extractAll_count (selectorOf w) w⟩

/-- Settles O14: the decoder's cases, with the fields as numbers. -/
theorem controlByteNamesOperation : Obligations.ControlByteNamesOperation := by
  intro c
  rw [← countOf_eq_ofNat, ← operationOf_toNat]
  rcases decodeCommand_cases c with ⟨hop, hd⟩ | ⟨hop, hd⟩ | ⟨hop, hd⟩ | ⟨hop, hd⟩ | ⟨hop, -⟩
  · exact ⟨fun _ => hd, fun _ => by omega, fun _ => by omega, fun _ => by omega⟩
  · exact ⟨fun _ => by omega, fun _ => hd, fun _ => by omega, fun _ => by omega⟩
  · exact ⟨fun _ => by omega, fun _ => by omega, fun _ => hd, fun _ => by omega⟩
  · exact ⟨fun _ => by omega, fun _ => by omega, fun _ => by omega, fun _ => hd⟩
  · exact ⟨fun _ => by omega, fun _ => by omega, fun _ => by omega, fun _ => by omega⟩

/-- Settles O15: closed decodings, evaluated. -/
theorem writtenOutWordsDecode : Obligations.WrittenOutWordsDecode :=
  ⟨rfl, rfl, rfl, rfl, rfl, rfl, rfl, rfl⟩

/-- Settles O16: the table's rows, checked one by one. -/
theorem layoutTableInvariants : Obligations.LayoutTableInvariants := by
  refine ⟨fun k => ⟨layout_widths_length k, layout_widths_sum k⟩, by decide, ?countsFall,
    forall_selector (by decide), by decide⟩
  case countsFall =>
    have htable : ∀ i i' : Fin 16, i ≤ i' →
        (layoutAt (.ofFin i')).count ≤ (layoutAt (.ofFin i)).count := by decide
    exact fun k k' h => htable k.toFin k'.toFin h

/-- Settles O17: the slots leave no gap below bit 28, and no two of them overlap. -/
theorem slotsCoverPayloadOnce : Obligations.SlotsCoverPayloadOnce := by
  intro k b
  have hcount := layout_count_le k
  obtain ⟨j, hj, hlow, hhigh⟩ := slot_of_bit k b.val le_rfl ((layout_off_count k).symm ▸ b.isLt)
  refine ⟨⟨j, by omega⟩, ⟨hj, hlow, hhigh⟩, ?_⟩
  rintro i ⟨hi, hlow', hhigh'⟩
  apply Fin.ext
  rcases Nat.lt_trichotomy i.val j with hij | hij | hij
  · have := slot_end_le_off k hi hij
    omega
  · exact hij
  · have := slot_end_le_off k hj hij
    omega

/-- Settles O18: the decoder rejects exactly the reserved codes, and a rejected command's only effect
is its error completion. -/
theorem reservedOperationIsIllegal : Obligations.ReservedOperationIsIllegal := by
  have hreject (c : Command) : (∃ e, decode (.command c) = .error e) ↔ 4 ≤ c.ctrl.toNat % 8 := by
    rw [← operationOf_toNat]
    constructor
    · rintro ⟨e, he⟩
      exact ((decodeCommand_error_iff c e).1 he).1
    · exact fun h => ⟨_, (decodeCommand_error_iff c _).2 ⟨h, rfl⟩⟩
  refine ⟨fun s c rest hin hop => ?_, hreject⟩
  obtain ⟨e, he⟩ := (hreject c).2 hop
  exact ⟨_, (step_of_present hin).trans (runInput_of_reject _ he),
    raiseStatus_completedError _ .illegalCommand, rfl, rfl, rfl⟩

end Sys2Proof.Machine
end

section
/-!
Proofs of the statements on the range validator (40_validate.md R81 to R84). First the control byte as a
number, what every completion leaves, VALIDATE's three completions each from its own test on the window,
and the choice of layout for a representable first value; then the statements.
-/

namespace Sys2Proof.Machine

/-! ### The control byte as a number -/

theorem countOf_toNat (b : Byte) : (countOf b).toNat = b.toNat / 8 := by
  rw [countOf_eq_ofNat, BitVec.toNat_ofNat]
  omega

/-- `CMD_CTRL = (n << 3) | op` as a number (R59). -/
theorem controlByte_toNat (n : Count) (op : Operation) :
    (controlByte n op).toNat = n.toNat * 8 + op.toNat := by
  have hn := countOf_toNat (controlByte n op)
  have hop := operationOf_toNat (controlByte n op)
  rw [countOf_controlByte] at hn
  rw [operationOf_controlByte] at hop
  omega

/-! ### What a completion leaves -/

/-- The frame of every completion: only result registers are written (R119, R120). -/
theorem complete_sameOutside (s : State) (code : Status) (r : Results) :
    s.sameOutside (s.complete code r) := ⟨rfl, rfl, rfl⟩

theorem completeOk_completedOk (s : State) (r : Results) : (s.completeOk r).completedOk := ⟨rfl, rfl⟩

/-- A normal completion whose rule names no data register clears them all (R120). -/
theorem completeOk_dataCleared (s : State) : (s.completeOk {}).dataCleared := by
  simp [State.dataCleared]

/-! ### VALIDATE, by what the window holds -/

section Validate
variable {n : Count} {lanes : Lanes} (s : State)

theorem exec_validate_of_badCount (h : 28 < n.toNat) :
    exec (.validate n lanes) s = .next (s.raiseStatus .badCount) := by
  rcases exec_validate_cases n lanes s with ⟨-, he⟩ | ⟨hle, -⟩ | ⟨hle, -⟩
  · exact he
  · omega
  · omega

theorem exec_validate_of_tooLarge (hn : n.toNat ≤ 28)
    (h : ∃ j : Fin 28, j.val < n.toNat ∧ 268435455 < lanes[j].toNat) :
    exec (.validate n lanes) s = .next (s.raiseStatus .valueOutOfRange) := by
  have hrange := (outOfRange_iff lanes hn).2 h
  rcases exec_validate_cases n lanes s with ⟨hbad, -⟩ | ⟨-, -, he⟩ | ⟨-, hfalse, -⟩
  · omega
  · exact he
  · simp [hrange] at hfalse

theorem exec_validate_of_representable (hn : n.toNat ≤ 28)
    (h : ∀ j : Fin 28, j.val < n.toNat → lanes[j].toNat ≤ 268435455) :
    exec (.validate n lanes) s = .next (s.completeOk {}) := by
  have hrange := (outOfRange_eq_false_iff lanes hn).2 h
  rcases exec_validate_cases n lanes s with ⟨hbad, -⟩ | ⟨-, htrue, -⟩ | ⟨-, -, he⟩
  · omega
  · simp [hrange] at htrue
  · exact he

variable {s} {t : State}

/-- Status 0 is VALIDATE's answer only for a legal count and a window of representable values (R81). -/
theorem representable_of_validate_ok (h : exec (.validate n lanes) s = .next t)
    (hok : t.status = 0#3) :
    n.toNat ≤ 28 ∧ ∀ j : Fin 28, j.val < n.toNat → lanes[j].toNat ≤ 268435455 := by
  rcases exec_validate_cases n lanes s with ⟨-, he⟩ | ⟨-, -, he⟩ | ⟨hn, hrange, -⟩
  · cases he.symm.trans h
    simp [Status.code] at hok
  · cases he.symm.trans h
    simp [Status.code] at hok
  · exact ⟨hn, (outOfRange_eq_false_iff lanes hn).1 hrange⟩

end Validate

/-- Every lane of a block with IN_W of 8 or 16 holds a representable value (R83). -/
theorem narrow_lane_representable {w : InputWidth} {lanes : Lanes} (hw : w = .w8 ∨ w = .w16)
    (hfit : lanes.fitWidth w = true) (j : Fin 28) : lanes[j].toNat ≤ 268435455 := by
  have hlane := (fitWidth_iff w lanes).1 hfit j
  have hbits : w.bits ≤ 16 := by rcases hw with rfl | rfl <;> decide
  have hpow : 2 ^ w.bits ≤ 2 ^ 16 := Nat.pow_le_pow_right (by decide) hbits
  omega

/-! ### The choice of PACK and SELECT -/

/-- A window with a representable first value has a layout (R90). -/
theorem chooseLayout_of_representable_first {n : Count} {lanes : Lanes} (hpos : 1 ≤ n.toNat)
    (hn : n.toNat ≤ 28) (hfirst : lanes[0].toNat ≤ 268435455) :
    ∃ k, firstFit k lanes n.toNat ∧ chooseLayout n lanes = .ok k := by
  rcases chooseLayout_cases n lanes with
    ⟨hbad, -⟩ | ⟨hempty, -⟩ | ⟨-, -, hwide, -⟩ | ⟨-, -, -, hchoice⟩
  · omega
  · omega
  · omega
  · exact hchoice

/-! ### The statements -/

/-- Settles O20: VALIDATE's three completions, their frame, and the control byte as a number. -/
theorem validateChecksWindow : Obligations.ValidateChecksWindow := by
  refine ⟨fun n lanes s hn h => ?ok, fun n lanes s hn h => ?outOfRange, fun n lanes s h => ?badCount,
    fun n lanes => ⟨_, rfl, controlByte_toNat n _, rfl⟩⟩
  case ok =>
    exact ⟨_, exec_validate_of_representable s hn h, completeOk_completedOk s _,
      completeOk_dataCleared s, complete_sameOutside s _ _⟩
  case outOfRange =>
    exact ⟨_, exec_validate_of_tooLarge s hn h, raiseStatus_completedError s .valueOutOfRange,
      complete_sameOutside s _ _⟩
  case badCount =>
    exact ⟨_, exec_validate_of_badCount s h, raiseStatus_completedError s .badCount,
      complete_sameOutside s _ _⟩

/-- Settles O21: with lanes this narrow only the count can fail the command. -/
theorem narrowValidateNeverOutOfRange : Obligations.NarrowValidateNeverOutOfRange := by
  intro n lanes s hw hfit
  by_cases hn : n.toNat ≤ 28
  · have he := exec_validate_of_representable s hn fun j _ => narrow_lane_representable hw hfit j
    exact ⟨_, he, by simp, complete_sameOutside s _ _, fun _ => completeOk_completedOk s _⟩
  · have hbad : 28 < n.toNat := Nat.lt_of_not_le hn
    exact ⟨_, exec_validate_of_badCount s hbad, by simp [Status.code], complete_sameOutside s _ _,
      fun h => absurd h hn⟩

/-- Settles O22: lane 0 passed the range test, so layout 15 fits and a layout is chosen. -/
theorem validatedWindowAlwaysFits : Obligations.ValidatedWindowAlwaysFits := by
  intro n lanes s t s' hpos h hok
  obtain ⟨hn, hall⟩ := representable_of_validate_ok h hok
  have hfirst : lanes[0].toNat ≤ 268435455 := hall 0 hpos
  obtain ⟨k, -, hchoice⟩ := chooseLayout_of_representable_first hpos hn hfirst
  exact ⟨hfirst, (windowFits_fifteen_iff lanes hpos).2 hfirst,
    ⟨_, exec_pack_of_ok s' hchoice, completeOk_completedOk s' _⟩,
    _, exec_select_of_ok s' hchoice, completeOk_completedOk s' _⟩

end Sys2Proof.Machine
end

section
/-!
Proofs of the statements on the packer (41_pack_select.md R88 to R96). First what the window commands read
of the lanes, what a normal PACK leaves and what its word holds, and the completions that PACK and SELECT
share, each said once; then the statements.
-/

namespace Sys2Proof.Machine

/-! ### Windows that agree below the count (R94) -/

section WindowCongr
variable {lanes lanes' : Lanes} {n : Nat} (h : ∀ j : Fin 28, j.val < n → lanes[j] = lanes'[j])
include h

theorem laneValue_congr {j : Nat} (hj : j < n) : laneValue lanes j = laneValue lanes' j := by
  by_cases h28 : j < 28
  · rw [laneValue_of_lt lanes h28, laneValue_of_lt lanes' h28]
    exact congrArg BitVec.toNat (h ⟨j, h28⟩ hj)
  · simp [laneValue, h28]

theorem outOfRange_congr (hn : n ≤ 28) : outOfRange lanes n = outOfRange lanes' n := by
  rw [Bool.eq_iff_iff, outOfRange_iff lanes hn, outOfRange_iff lanes' hn]
  exact exists_congr fun j => and_congr_right fun hj => by rw [h j hj]

theorem windowFits_congr (k : Selector) : windowFits k lanes n ↔ windowFits k lanes' n :=
  forall_congr' fun j => imp_congr_right fun hj => by rw [h j (by omega)]

theorem selectLayout_congr : selectLayout lanes n = selectLayout lanes' n := by
  ext k
  simp only [selectLayout_eq_some_iff, firstFit, windowFits_congr h]

theorem insertSlots_congr (k : Selector) {c : Nat} (hc : c ≤ n) :
    insertSlots k lanes c = insertSlots k lanes' c := by
  refine congrArg (BitVec.ofNat 32) (List.foldl_ext _ _ _ fun acc j hj => ?_)
  rw [laneValue_congr h (Nat.lt_of_lt_of_le (List.mem_range.1 hj) hc)]

end WindowCongr

theorem chooseLayout_congr {n : Count} {lanes lanes' : Lanes}
    (h : ∀ j : Fin 28, j.val < n.toNat → lanes[j] = lanes'[j]) :
    chooseLayout n lanes = chooseLayout n lanes' := by
  rw [chooseLayout, chooseLayout, selectLayout_congr h]

theorem consumedCount_le_window (k : Selector) (n : Nat) : consumedCount k n ≤ n :=
  Nat.min_le_right _ _

/-! ### The choice of PACK and SELECT -/

section Choice
variable {n : Count} {lanes : Lanes}

theorem chooseLayout_of_wide_first (hpos : 1 ≤ n.toNat) (hn : n.toNat ≤ 28)
    (hwide : 268435455 < lanes[0].toNat) : chooseLayout n lanes = .error .noFit := by
  rcases chooseLayout_cases n lanes with
    ⟨hbad, -⟩ | ⟨hempty, -⟩ | ⟨-, -, -, he⟩ | ⟨-, -, hfirst, -⟩
  · omega
  · omega
  · exact he
  · omega

theorem chooseLayout_of_zero (h : n.toNat = 0) : chooseLayout n lanes = .error .emptyWindow := by
  obtain rfl : n = 0#5 := BitVec.eq_of_toNat_eq h
  exact chooseLayout_of_empty

/-- The layout that PACK and SELECT choose is the first that fits (R86, R92). -/
theorem firstFit_of_chooseLayout {k : Selector} (h : chooseLayout n lanes = .ok k) :
    firstFit k lanes n.toNat := by
  rcases chooseLayout_cases n lanes with
    ⟨-, he⟩ | ⟨-, he⟩ | ⟨-, -, -, he⟩ | ⟨-, -, -, k', hfirst, he⟩
  · simp [he] at h
  · simp [he] at h
  · simp [he] at h
  · obtain rfl : k' = k := by simpa [he] using h
    exact hfirst

/-- A failed choice is never reported as status 0 (R118). -/
theorem chooseLayout_ne_error_ok : chooseLayout n lanes ≠ .error .ok := by
  rcases chooseLayout_cases n lanes with ⟨-, he⟩ | ⟨-, he⟩ | ⟨-, -, -, he⟩ | ⟨-, -, -, k, -, he⟩
  all_goals simp [he]

end Choice

theorem Status.code_eq_zero_iff (e : Status) : e.code = 0#3 ↔ e = .ok := by
  cases e <;> decide

/-! ### The payload -/

theorem payloadSum_eq_sum_range (k : Selector) (lanes : Lanes) (c : Nat) : payloadSum k lanes c
    = ∑ j ∈ Finset.range c, laneValue lanes j * 2 ^ (layoutAt k).off j := by
  induction c with
  | zero => rfl
  | succ c ih => rw [payloadSum, ih, Finset.sum_range_succ]

/-- The payload is a sum over the lanes, with nothing from a lane that was not taken (R96). -/
theorem payloadSum_eq_sum_lanes (k : Selector) (lanes : Lanes) {c : Nat} (hc : c ≤ 28) :
    payloadSum k lanes c = ((List.finRange 28).map fun j : Fin 28 =>
      if j.val < c then lanes[j].toNat * 2 ^ (layoutAt k).off j.val else 0).sum := by
  have hfilter : (Finset.range 28).filter (· < c) = Finset.range c := by
    ext j
    simp only [Finset.mem_filter, Finset.mem_range]
    omega
  rw [payloadSum_eq_sum_range, ← hfilter, Finset.sum_filter, ← Fin.sum_univ_eq_sum_range
    (fun j => if j < c then laneValue lanes j * 2 ^ (layoutAt k).off j else 0), Fin.sum_univ_def]
  simp only [laneValue_of_lt lanes (Fin.isLt _), Fin.getElem_fin]

/-- A value in its slot stays below bit 28 (R96). -/
theorem slot_weight_lt (k : Selector) {j v : Nat} (hj : j < (layoutAt k).count)
    (hv : v < 2 ^ (layoutAt k).width j) : v * 2 ^ (layoutAt k).off j < 2 ^ 28 :=
  calc v * 2 ^ (layoutAt k).off j
      < 2 ^ (layoutAt k).width j * 2 ^ (layoutAt k).off j :=
        Nat.mul_lt_mul_of_pos_right hv (Nat.two_pow_pos _)
    _ = 2 ^ ((layoutAt k).off j + (layoutAt k).width j) := by rw [← pow_add, Nat.add_comm]
    _ ≤ 2 ^ 28 := Nat.pow_le_pow_right (by decide) (layout_slot_end_le k hj)

/-! ### What a normal PACK leaves -/

/-- The data registers after a normal PACK of the window `lanes[0 .. n-1]` (R88). -/
structure State.PacksWindow (t : State) (n : Nat) (lanes : Lanes) : Prop where
  sel_first : firstFit t.sel lanes n
  count_eq : t.count.toNat = min (layoutAt t.sel).count n
  word_eq : t.word = insertSlots t.sel lanes t.count.toNat
  lane_zero : ∀ j : Fin 28, t.lane[j] = 0#32

theorem pack_of_choice {n : Count} {lanes : Lanes} {k : Selector} (s : State)
    (h : chooseLayout n lanes = .ok k) :
    ∃ t, exec (.pack n lanes) s = .next t ∧ t.completedOk ∧ s.sameOutside t
      ∧ t.PacksWindow n.toNat lanes := by
  have hcount := consumedCount_toNat k n.toNat
  refine ⟨_, exec_pack_of_ok s h, completeOk_completedOk s _, complete_sameOutside s _ _, ?_⟩
  exact {
    sel_first := firstFit_of_chooseLayout h
    count_eq := hcount
    word_eq := by rw [completeOk_count, hcount]; rfl
    lane_zero := fun j => by simp }

/-- Status 0 is PACK's answer only when it packed the window. -/
theorem packsWindow_of_pack_ok {n : Count} {lanes : Lanes} {s t : State}
    (h : exec (.pack n lanes) s = .next t) (hok : t.status = 0#3) : t.PacksWindow n.toNat lanes := by
  cases hc : chooseLayout n lanes with
  | error e =>
    cases (exec_pack_of_error s hc).symm.trans h
    rw [raiseStatus_status, Status.code_eq_zero_iff] at hok
    exact absurd (hok ▸ hc) chooseLayout_ne_error_ok
  | ok k =>
    obtain ⟨t', ht', -, -, hpacks⟩ := pack_of_choice s hc
    cases ht'.symm.trans h
    exact hpacks

namespace State.PacksWindow
variable {t : State} {n : Nat} {lanes : Lanes} (h : t.PacksWindow n lanes)
include h

theorem count_le : t.count.toNat ≤ (layoutAt t.sel).count :=
  h.count_eq ▸ Nat.min_le_left _ _

/-- A taken value fits the slot it is put into (R85). -/
theorem taken_fits {j : Nat} (hj : j < t.count.toNat) :
    laneValue lanes j < 2 ^ (layoutAt t.sel).width j :=
  windowFits_lane t.sel lanes h.sel_first.1 (Nat.lt_of_lt_of_eq hj h.count_eq)

/-- Every slot of the packed word: the taken value, or 0 in an unfilled slot (R88, R91). -/
theorem slotNumber_word (j : Fin 28) (hj : j.val < (layoutAt t.sel).count) :
    slotNumber t.word t.sel j.val = if j.val < t.count.toNat then lanes[j].toNat else 0 := by
  rw [h.word_eq, slotNumber_insertSlots t.sel lanes h.count_le hj fun _ => h.taken_fits,
    laneValue_of_lt lanes j.isLt, Fin.getElem_fin]

theorem selectorOf_word : selectorOf t.word = t.sel := by
  rw [h.word_eq, insertSlots_selector t.sel lanes h.count_le fun _ => h.taken_fits]

/-- The packed word as a number (R96). -/
theorem word_toNat : t.word.toNat = t.sel.toNat * 2 ^ 28 + payloadSum t.sel lanes t.count.toNat := by
  conv_lhs => rw [h.word_eq]
  exact insertSlots_toNat t.sel lanes h.count_le fun _ => h.taken_fits

end State.PacksWindow

/-! ### Error completions of PACK and SELECT -/

section ErrorCompletion
variable {n : Count} {lanes : Lanes} {e : Status} (s : State)

theorem pack_completedError (h : chooseLayout n lanes = .error e) :
    ∃ t, exec (.pack n lanes) s = .next t ∧ t.completedError e.code ∧ s.sameOutside t :=
  ⟨_, exec_pack_of_error s h, raiseStatus_completedError s e, complete_sameOutside s e _⟩

theorem select_completedError (h : chooseLayout n lanes = .error e) :
    ∃ t, exec (.select n lanes) s = .next t ∧ t.completedError e.code ∧ s.sameOutside t :=
  ⟨_, exec_select_of_error s h, raiseStatus_completedError s e, complete_sameOutside s e _⟩

end ErrorCompletion

/-! ### The statements -/

/-- Settles O23: PACK by what the window holds, and the control byte as a number. -/
theorem packPacksFirstFit : Obligations.PackPacksFirstFit := by
  refine ⟨fun n lanes s hpos hn hfirst => ?ok,
    fun n lanes s hpos hn hwide => pack_completedError s (chooseLayout_of_wide_first hpos hn hwide),
    fun n lanes s h => pack_completedError s (chooseLayout_of_zero h),
    fun n lanes s h => pack_completedError s (chooseLayout_of_badCount h),
    fun n lanes => ⟨_, rfl, controlByte_toNat n _, rfl⟩⟩
  case ok =>
    obtain ⟨k, -, hchoice⟩ := chooseLayout_of_representable_first hpos hn hfirst
    obtain ⟨t, he, hok, hsame, hpacks⟩ := pack_of_choice s hchoice
    have hsel : t.word.toNat / 2 ^ 28 = t.sel.toNat := by
      rw [← selectorOf_toNat, hpacks.selectorOf_word]
    exact ⟨t, he, hok, hsame, hpacks.sel_first, hpacks.count_eq, hsel, hpacks.slotNumber_word,
      hpacks.lane_zero⟩

/-- Settles O24: SELECT by what the window holds, and the control byte as a number. -/
theorem selectCountsFirstFit : Obligations.SelectCountsFirstFit := by
  refine ⟨fun n lanes s hpos hn hfirst => ?ok,
    fun n lanes s hpos hn hwide => select_completedError s (chooseLayout_of_wide_first hpos hn hwide),
    fun n lanes s h => select_completedError s (chooseLayout_of_zero h),
    fun n lanes s h => select_completedError s (chooseLayout_of_badCount h),
    fun n lanes => ⟨_, rfl, controlByte_toNat n _, rfl⟩⟩
  case ok =>
    obtain ⟨k, hfit, hchoice⟩ := chooseLayout_of_representable_first hpos hn hfirst
    exact ⟨_, exec_select_of_ok s hchoice, completeOk_completedOk s _, complete_sameOutside s _ _,
      hfit, consumedCount_toNat k n.toNat, rfl, fun j => by simp⟩

/-- Settles O25: a layout that fits has a representable first value, and layout 15 fits every window
whose first value is representable. -/
theorem selectionFindsRepresentable : Obligations.SelectionFindsRepresentable := by
  refine ⟨selectors_length, fun lanes n hn => ⟨?found, fun hfirst => ?finds⟩⟩
  case found =>
    rintro ⟨k, hk⟩
    exact windowFits_first k lanes hn ((selectLayout_eq_some_iff lanes n k).1 hk).1
  case finds =>
    cases hsel : selectLayout lanes n with
    | none =>
      have hfits := (windowFits_fifteen_iff lanes hn).2 hfirst
      exact absurd hfits ((selectLayout_eq_none_iff lanes n).1 hsel 15#4)
    | some k => exact ⟨k, rfl⟩

/-- Settles O26: the count is the smaller of the slot count and n. -/
theorem partlyFilledOnlyWhenWindowShort : Obligations.PartlyFilledOnlyWhenWindowShort := by
  intro n lanes s t he hok
  have hpacks := packsWindow_of_pack_ok he hok
  have hcount := hpacks.count_eq
  refine ⟨by omega, fun hshort => BitVec.eq_of_toNat_eq (by omega), fun j hbeyond hj => ?_⟩
  rw [hpacks.slotNumber_word j hj, if_neg (by omega)]

/-- Settles O27: both follow the same choice. -/
theorem packAndSelectAgree : Obligations.PackAndSelectAgree := by
  intro n lanes s
  cases h : chooseLayout n lanes with
  | error e =>
    exact ⟨_, _, exec_pack_of_error s h, exec_select_of_error s h,
      rfl, rfl, rfl, rfl, rfl, ⟨rfl, rfl, rfl⟩, rfl⟩
  | ok k =>
    exact ⟨_, _, exec_pack_of_ok s h, exec_select_of_ok s h,
      rfl, rfl, rfl, rfl, rfl, ⟨rfl, rfl, rfl⟩, rfl⟩

/-- Settles O28: the range test, the choice and the insertion read lanes below n only. -/
theorem lanesBeyondCountUnread : Obligations.LanesBeyondCountUnread := by
  intro n lanes lanes' s h
  have hchoice := chooseLayout_congr h
  refine ⟨?validate, ?pack, ?select⟩
  case validate =>
    by_cases hn : n.toNat ≤ 28
    · rw [exec_validate, exec_validate, execValidate, execValidate, outOfRange_congr h hn]
    · have hbad : 28 < n.toNat := Nat.lt_of_not_le hn
      rw [exec_validate_of_badCount s hbad, exec_validate_of_badCount s hbad]
  case pack =>
    cases hc : chooseLayout n lanes with
    | error e => rw [exec_pack_of_error s hc, exec_pack_of_error s (hchoice ▸ hc)]
    | ok k =>
      rw [exec_pack_of_ok s hc, exec_pack_of_ok s (hchoice ▸ hc),
        insertSlots_congr h k (consumedCount_le_window k n.toNat)]
  case select =>
    rw [exec_select, exec_select, execSelect, execSelect, hchoice]

/-- Settles O29: the word as a number, its selector, its slots, and the slots' order. -/
theorem packedWordLosesNoBit : Obligations.PackedWordLosesNoBit := by
  intro n lanes s t he hok
  have hpacks := packsWindow_of_pack_ok he hok
  have hcount := hpacks.count_le
  have h28 := layout_count_le t.sel
  refine ⟨?number, hpacks.selectorOf_word, fun j hj => ⟨?readBack, ?belowSelector⟩,
    fun i j hij hj => ?disjoint⟩
  case number => rw [hpacks.word_toNat, payloadSum_eq_sum_lanes t.sel lanes (by omega)]
  case readBack => rw [hpacks.slotNumber_word j (by omega), if_pos hj]
  case belowSelector =>
    have hfits := hpacks.taken_fits hj
    rw [laneValue_of_lt lanes j.isLt] at hfits
    exact slot_weight_lt t.sel (by omega) hfits
  case disjoint => exact slot_end_le_off t.sel (by omega) hij

end Sys2Proof.Machine
end

section
/-!
Proofs of the statements on UNPACK (42_unpack.md R98 to R101). First what UNPACK of a word answers, in the
registers and as slots, and the bound that a slot's width puts on a result lane; then the statements.
-/

namespace Sys2Proof.Machine

/-! ### What UNPACK answers -/

section Unpack
variable (n : Count) (w : Word) (s : State)

theorem exec_unpack :
    exec (.unpack n w) s = .next (s.completeOk (extractAll (selectorOf w) w)) := rfl

/-- UNPACK reads every slot of the layout that the word's own selector names (R98). -/
theorem exec_unpack_holdsSlots :
    ∃ t, exec (.unpack n w) s = .next t ∧ s.sameOutside t
      ∧ t.holdsSlots (selectorOf w) (layoutAt (selectorOf w)).count (slotNumber w (selectorOf w)) :=
  ⟨_, exec_unpack n w s, complete_sameOutside s _ _,
    completeOk_extractAll_holdsSlots s rfl fun _ _ => rfl⟩

end Unpack

/-! ### The bound on a result lane -/

/-- No slot is wider than the payload, so a lane that fits its slot is below 2^28 (R101). -/
theorem slot_value_lt (k : Selector) {j v : Nat} (hv : v < 2 ^ (layoutAt k).width j) : v < 2 ^ 28 :=
  Nat.lt_of_lt_of_le hv (Nat.pow_le_pow_right (by decide) (layout_width_le k j))

/-- Bits 31:28 of a number below 2^28 are 0. -/
theorem selectorOf_eq_zero {w : Word} (h : w.toNat < 2 ^ 28) : selectorOf w = 0#4 := by
  apply BitVec.eq_of_toNat_eq
  rw [selectorOf_toNat, Nat.div_eq_of_lt h]
  rfl

/-! ### The statements -/

/-- Settles O30: the slots of the word's own layout, the selector and the control byte as numbers. -/
theorem unpackReadsEverySlot : Obligations.UnpackReadsEverySlot := by
  refine ⟨fun n w s => ?slots, fun n w => ⟨_, rfl, controlByte_toNat n _, rfl⟩⟩
  case slots =>
    obtain ⟨t, he, hsame, hslots⟩ := exec_unpack_holdsSlots n w s
    have ⟨_, hsel, _⟩ := hslots
    rw [← hsel] at hslots
    exact ⟨t, he, hsame, hsel ▸ selectorOf_toNat w, hslots⟩

/-- Settles O35: the word is its selector and payload put together again. -/
theorem unpackRunsItsWord : Obligations.UnpackRunsItsWord := by
  intro n w i s h
  obtain rfl : decodeWord w = i := Except.ok.inj h
  rw [decodeWord, exec_wordForm, packedWord_fields, exec_unpack]

/-- Settles O37: the packed word carries its selector, and each of its slots reads back as PACK filled
it. -/
theorem unpackInvertsPack : Obligations.UnpackInvertsPack := by
  intro n m lanes s s' p hpack hok
  have hpacks := packsWindow_of_pack_ok hpack hok
  have hcount := hpacks.count_le
  obtain ⟨u, hunpack, -, hslots⟩ := exec_unpack_holdsSlots m p.word s'
  rw [hpacks.selectorOf_word] at hslots
  obtain ⟨hdone, hsel, hslotCount, -, hlane⟩ := hslots
  refine ⟨u, hunpack, hdone, hsel, hslotCount, fun j => ?_⟩
  rw [hlane j]
  by_cases hj : j.val < (layoutAt p.sel).count
  · rw [if_pos hj, hpacks.slotNumber_word j hj]
  · rw [if_neg hj, if_neg (by omega)]

/-- Settles O38: an extracted lane fits its slot, and no slot is wider than the payload. -/
theorem unpackedValuesFitTheirSlots : Obligations.UnpackedValuesFitTheirSlots := by
  intro n w s t h
  cases (exec_unpack n w s).symm.trans h
  have hfits := (extractAll_legal (selectorOf w) w).lane_fits
  refine ⟨fun j _ => hfits j, fun j => layout_width_le (selectorOf w) j, fun j => ?_⟩
  have hlt := slot_value_lt (selectorOf w) (hfits j)
  exact ⟨Nat.le_of_lt_succ hlt, selectorOf_eq_zero hlt⟩

end Sys2Proof.Machine
end

section
/-!
Proofs of the statements on the stream operations (43_stream_operations.md R103 to R117). This part has
the host's side of the encoder: a loop from a cursor is the loop over the values left there, an input is
cut greedily into windows, and COMPRESS and CALC_SIZE are told by that cut (R104, R106) or by the value
that phase 1 rejects (R103, R105).
-/

namespace Sys2Proof.Machine

/-! ### The window at a cursor, as the first window of the values left there -/

section Cursor
variable (values : List Lane) (k : Nat)

theorem windowCount_drop (m : Nat) :
    windowCount (values.drop k) m = windowCount values (k + m) := by
  rw [windowCount, windowCount, List.length_drop, Nat.sub_sub]

theorem windowLanes_drop (m : Nat) :
    windowLanes (values.drop k) m = windowLanes values (k + m) := by
  simp [windowLanes, Nat.add_assoc]

theorem lt_length_drop (m : Nat) : m < (values.drop k).length ↔ k + m < values.length := by
  rw [List.length_drop]
  omega

/-- The loop of R104 sees only the values from the cursor on. -/
theorem packLoop_drop (fuel m : Nat) (out : List Byte) (s : State) :
    packLoop (values.drop k) fuel m out s = packLoop values fuel (k + m) out s := by
  induction fuel generalizing m out s with
  | zero => simp only [packLoop, lt_length_drop]
  | succ fuel ih =>
    simp only [packLoop, lt_length_drop, windowCount_drop, windowLanes_drop, ih, Nat.add_assoc]

/-- The loop of R106 sees only the values from the cursor on. -/
theorem sizeLoop_drop (fuel m size : Nat) (s : State) :
    sizeLoop (values.drop k) fuel m size s = sizeLoop values fuel (k + m) size s := by
  induction fuel generalizing m size s with
  | zero => simp only [sizeLoop, lt_length_drop]
  | succ fuel ih =>
    simp only [sizeLoop, lt_length_drop, windowCount_drop, windowLanes_drop, ih, Nat.add_assoc]

variable {values}

theorem fitDomain.drop {w : InputWidth} (h : fitDomain w values) : fitDomain w (values.drop k) :=
  fun v hv => h v (List.mem_of_mem_drop hv)

theorem representable.drop (h : representable values) : representable (values.drop k) :=
  fun v hv => h v (List.mem_of_mem_drop hv)

end Cursor

/-! ### The first window, packed -/

/-- How many values the layout `k` takes from the front of the input (R86, R104). -/
def windowTaken (k : Selector) (values : List Lane) : Nat := min (layoutAt k).count values.length

/-- What PACK writes for the first window of the input in the layout `k` (R88). -/
def packedWindow (k : Selector) (values : List Lane) : Results where
  sel := k
  count := BitVec.ofNat 5 (windowTaken k values)
  word := insertSlots k (windowLanes values 0) (windowTaken k values)

/-- What SELECT writes for it: the same, and no word (R89). -/
def selectedWindow (k : Selector) (values : List Lane) : Results where
  sel := k
  count := BitVec.ofNat 5 (windowTaken k values)

/-- The layout that PACK and SELECT choose for the first window of the input (R86). -/
def choosesFirst (values : List Lane) (k : Selector) : Prop :=
  chooseLayout (windowCount values 0) (windowLanes values 0) = .ok k

/-- The window's bound of 28 takes nothing away: no layout has more slots. -/
theorem consumedCount_window (k : Selector) (values : List Lane) :
    consumedCount k (windowCount values 0).toNat = windowTaken k values := by
  have h28 := layout_count_le k
  rw [consumedCount, windowCount_toNat, windowTaken]
  omega

theorem packedWindow_count_toNat (k : Selector) (values : List Lane) :
    (packedWindow k values).count.toNat = windowTaken k values := by
  rw [packedWindow, ← consumedCount_window, consumedCount_toNat]

theorem selectedWindow_count_toNat (k : Selector) (values : List Lane) :
    (selectedWindow k values).count.toNat = windowTaken k values :=
  packedWindow_count_toNat k values

theorem windowTaken_pos (k : Selector) {values : List Lane} (h : values ≠ []) :
    1 ≤ windowTaken k values := by
  have hlayout := layout_count_pos k
  have hlength := List.length_pos_of_ne_nil h
  rw [windowTaken]
  omega

theorem windowTaken_le_length (k : Selector) (values : List Lane) :
    windowTaken k values ≤ values.length :=
  Nat.min_le_right _ _

section FirstWindow
variable {values : List Lane} {k : Selector} (s : State) (hc : choosesFirst values k)
include hc

theorem exec_pack_window : exec (.pack (windowCount values 0) (windowLanes values 0)) s
    = .next (s.completeOk (packedWindow k values)) := by
  rw [exec_pack_of_ok s hc, consumedCount_window]
  rfl

theorem exec_select_window : exec (.select (windowCount values 0) (windowLanes values 0)) s
    = .next (s.completeOk (selectedWindow k values)) := by
  rw [exec_select_of_ok s hc, consumedCount_window]
  rfl

theorem packsWindow_packedWindow : (s.completeOk (packedWindow k values)).PacksWindow
    (windowCount values 0).toNat (windowLanes values 0) :=
  packsWindow_of_pack_ok (exec_pack_window s hc) (completeOk_status s _)

variable {s} (hne : values ≠ []) (hd : fitDomain s.inW values)
include hne hd

/-- One turn of the loop of R104. -/
theorem packLoop_window (fuel : Nat) (out : List Byte) : packLoop values (fuel + 1) 0 out s
    = packLoop (values.drop (windowTaken k values)) fuel 0 (out ++ le4 (packedWindow k values).word)
        (s.completeOk (packedWindow k values)) := by
  have hv := completeOk_valid s (packedWindow k values)
  rw [packLoop, if_pos (List.length_pos_of_ne_nil hne), issue_pack hd, ← exec_pack,
    exec_pack_window s hc, andThen_next, hostRead_of_valid _ _ hv, andThen_next,
    hostRead_of_valid _ _ hv, andThen_next, resultValue_count_toNat, completeOk_count,
    packedWindow_count_toNat, packLoop_drop, Nat.zero_add]
  rfl

/-- One turn of the loop of R106. -/
theorem sizeLoop_window (fuel size : Nat) : sizeLoop values (fuel + 1) 0 size s
    = sizeLoop (values.drop (windowTaken k values)) fuel 0 (size + 4)
        (s.completeOk (selectedWindow k values)) := by
  have hv := completeOk_valid s (selectedWindow k values)
  rw [sizeLoop, if_pos (List.length_pos_of_ne_nil hne), issue_select hd, ← exec_select,
    exec_select_window s hc, andThen_next, hostRead_of_valid _ _ hv, andThen_next,
    resultValue_count_toNat, completeOk_count, selectedWindow_count_toNat, sizeLoop_drop,
    Nat.zero_add]
  rfl

end FirstWindow

/-! ### The greedy cut of an input -/

/-- The PACKs of COMPRESS, by what each writes: the first window in the layout chosen for it, then the
values it did not take (R92, R104). -/
inductive GreedyStream : List Lane → List Results → Prop where
  | nil : GreedyStream [] []
  | cons {values : List Lane} {k : Selector} {rs : List Results} (hne : values ≠ [])
      (hc : choosesFirst values k) (rest : GreedyStream (values.drop (windowTaken k values)) rs) :
      GreedyStream values (packedWindow k values :: rs)

/-- Every representable input is cut to its end: each window takes at least one value (R90, R104). -/
theorem exists_greedyStream {values : List Lane} (hr : representable values) :
    ∃ rs, GreedyStream values rs := by
  induction hlen : values.length using Nat.strong_induction_on generalizing values with
  | _ n ih =>
    by_cases hne : values = []
    · exact ⟨[], hne ▸ .nil⟩
    · obtain ⟨k, -, hc⟩ := chooseLayout_representable hr (List.length_pos_of_ne_nil hne)
      have htaken := windowTaken_pos k hne
      have hle := windowTaken_le_length k values
      have hshorter : (values.drop (windowTaken k values)).length < n := by
        rw [List.length_drop]
        omega
      obtain ⟨rs, hrest⟩ := ih _ hshorter (hr.drop _) rfl
      exact ⟨_, .cons hne hc hrest⟩

/-- The block after normal completions, one after another. -/
def State.completeAll (s : State) (rs : List Results) : State := rs.foldl State.completeOk s

/-- A completion leaves nothing of the results before it (R17). -/
theorem completeOk_of_sameOutside {s t : State} (h : s.sameOutside t) (r : Results) :
    t.completeOk r = s.completeOk r := by
  obtain ⟨hinW, hinput, hdraws⟩ := h
  simp only [State.completeOk, State.complete, hinW, hinput, hdraws]

namespace GreedyStream
variable {values : List Lane} {rs : List Results}

/-- The packing loop writes the words of the cut, whatever its bound, if it is enough (R104). -/
theorem packLoop_eq (h : GreedyStream values rs) {fuel : Nat} {out : List Byte} {s : State}
    (hd : fitDomain s.inW values) (hfuel : values.length ≤ fuel) :
    packLoop values fuel 0 out s
      = .next (out ++ (rs.map Results.word).flatMap le4, s.completeAll rs) := by
  induction h generalizing fuel out s with
  | nil => cases fuel <;> simp [packLoop, State.completeAll]
  | @cons values k rs hne hc rest ih =>
    have htaken := windowTaken_pos k hne
    have hlen := List.length_pos_of_ne_nil hne
    obtain ⟨fuel, rfl⟩ := Nat.exists_eq_add_of_le' (hlen.trans_le hfuel)
    rw [packLoop_window hc hne hd, ih (s := s.completeOk (packedWindow k values)) (hd.drop _)
      (by rw [List.length_drop]; omega), List.append_assoc]
    rfl

/-- The counting loop counts the words of the cut (R106). -/
theorem sizeLoop_eq (h : GreedyStream values rs) {fuel size : Nat} {s : State}
    (hd : fitDomain s.inW values) (hfuel : values.length ≤ fuel) :
    ∃ t, sizeLoop values fuel 0 size s = .next (size + 4 * rs.length, t) := by
  induction h generalizing fuel size s with
  | nil => exact ⟨s, by cases fuel <;> simp [sizeLoop]⟩
  | @cons values k rs hne hc rest ih =>
    have htaken := windowTaken_pos k hne
    have hlen := List.length_pos_of_ne_nil hne
    obtain ⟨fuel, rfl⟩ := Nat.exists_eq_add_of_le' (hlen.trans_le hfuel)
    obtain ⟨t, ht⟩ := ih (fuel := fuel) (size := size + 4)
      (s := s.completeOk (selectedWindow k values)) (hd.drop _)
      (by rw [List.length_drop]; omega)
    refine ⟨t, ?_⟩
    rw [sizeLoop_window hc hne hd, ht, List.length_cons, Nat.mul_succ, Nat.add_assoc, Nat.add_comm 4]

end GreedyStream

/-! ### Phase 1 -/

/-- With no values phase 1 issues no command. -/
theorem validatePhase_nil (s : State) : validatePhase [] s = .next (.ok (), s) := by
  unfold validatePhase
  split <;> rfl

/-- With IN_W of 8 or 16 every value is representable (R83). -/
theorem narrow_representable {w : InputWidth} {values : List Lane} (hw : w = .w8 ∨ w = .w16)
    (hd : fitDomain w values) : representable values := by
  intro v hv
  have hfit : Lanes.fitWidth w (Vector.replicate 28 v) = true :=
    (fitWidth_iff w _).2 fun j => by simpa using hd v hv
  simpa using narrow_lane_representable hw hfit 0

theorem not_representable_iff {values : List Lane} :
    ¬ representable values ↔ ∃ v ∈ values, 268435455 < v.toNat := by
  simp [representable]

/-- A window that holds a value above the bound ends the loop of R103, and every window before it is
passed. -/
theorem validateLoop_tooLarge {values : List Lane} {fuel k i : Nat} {s : State}
    (hd : fitDomain s.inW values) (hfuel : values.length ≤ k + fuel) (hki : k ≤ i)
    (hi : i < values.length) (hlarge : 268435455 < values[i].toNat) :
    ∃ t, validateLoop values fuel k s = .next (.error .valueOutOfRange, t)
      ∧ t.completedError 1#3 := by
  induction fuel generalizing k s with
  | zero => omega
  | succ fuel ih =>
    have hn := windowCount_toNat values k
    rw [validateLoop, if_pos (by omega), issue_validate hd, ← exec_validate]
    rcases exec_validate_cases (windowCount values k) (windowLanes values k) s with
      ⟨hbad, -⟩ | ⟨-, -, he⟩ | ⟨hle, hrange, he⟩
    · omega
    · exact ⟨_, by rw [he, andThen_next, hostRead_of_valid _ _ (raiseStatus_valid s _)]; rfl,
        raiseStatus_completedError s .valueOutOfRange⟩
    · have hpast : k + 28 ≤ i := by
        by_contra hin
        have hlane := (outOfRange_eq_false_iff _ hle).1 hrange ⟨i - k, by omega⟩ (by simp; omega)
        rw [windowLanes_getElem, Nat.add_sub_cancel' hki, List.getD_eq_getElem _ _ hi] at hlane
        omega
      obtain ⟨t, ht, herr⟩ := ih (k := k + 28) (s := s.completeOk {}) hd (by omega) hpast
      refine ⟨t, ?_, herr⟩
      rw [he, andThen_next, hostRead_of_valid _ _ (completeOk_valid s {}), andThen_next,
        if_neg (by simp [State.resultValue, Status.code])]
      exact ht

/-- With a value above the bound, IN_W is 32 or 64 and phase 1 answers ValueOutOfRange (R103). -/
theorem validatePhase_tooLarge {values : List Lane} {s : State} (hd : fitDomain s.inW values)
    (h : ∃ v ∈ values, 268435455 < v.toNat) :
    ∃ t, validatePhase values s = .next (.error .valueOutOfRange, t) ∧ t.completedError 1#3 := by
  obtain ⟨v, hv, hlarge⟩ := h
  obtain ⟨i, hi, rfl⟩ := List.getElem_of_mem hv
  have hloop := validateLoop_tooLarge hd (Nat.le_add_left values.length 0) (Nat.zero_le i) hi hlarge
  have hwide (hw : s.inW = .w8 ∨ s.inW = .w16) : False :=
    absurd (narrow_representable hw hd _ hv) (Nat.not_le_of_lt hlarge)
  unfold validatePhase
  split
  · exact (hwide (.inl ‹_›)).elim
  · exact (hwide (.inr ‹_›)).elim
  · exact hloop
  · exact hloop

/-! ### COMPRESS and CALC_SIZE -/

section Operations
variable {values : List Lane} {s : State} (hd : fitDomain s.inW values)
include hd

/-- COMPRESS of a representable input: the words of the greedy cut, and the block as the PACKs leave it. -/
theorem compress_greedy {rs : List Results} (hr : representable values)
    (h : GreedyStream values rs) (out : List Byte) : compress values out s
      = .next { answer := .ok (), out := out ++ (rs.map Results.word).flatMap le4,
                block := s.completeAll rs } := by
  obtain ⟨t, hphase, hsame⟩ := validatePhase_representable hr hd
  have hloop := h.packLoop_eq (out := out) (s := t) (hsame.1 ▸ hd) (le_refl values.length)
  have hblock : t.completeAll rs = s.completeAll rs := by
    cases h with
    | nil =>
      cases (validatePhase_nil s).symm.trans hphase
      rfl
    | @cons _ _ rs =>
      exact congrArg (State.completeAll · rs) (completeOk_of_sameOutside hsame _)
  simp [compress, hphase, hloop, hblock]

/-- CALC_SIZE of a representable input: four bytes for each word of the greedy cut. -/
theorem calcSize_greedy {rs : List Results} (hr : representable values)
    (h : GreedyStream values rs) :
    ∃ t, calcSize values s = .next { answer := .ok (4 * rs.length), block := t } := by
  obtain ⟨s₁, hphase, hsame⟩ := validatePhase_representable hr hd
  obtain ⟨t, hloop⟩ := h.sizeLoop_eq (size := 0) (s := s₁) (hsame.1 ▸ hd) (le_refl values.length)
  exact ⟨t, by simp [calcSize, hphase, hloop]⟩

variable (h : ∃ v ∈ values, 268435455 < v.toNat)
include h

/-- COMPRESS of an input that is not representable: the old bytes, then a free value (R105; log 9). -/
theorem compress_tooLarge (out : List Byte) :
    ∃ tail t, t.completedError 1#3 ∧ compress values out s
      = .next { answer := .error .valueOutOfRange, out := out ++ tail, block := t } := by
  obtain ⟨t, hphase, herr⟩ := validatePhase_tooLarge hd h
  exact ⟨Config.compressFailTail t.draws, { t with draws := t.draws + 1 }, herr,
    by simp [compress, hphase]⟩

theorem calcSize_tooLarge :
    ∃ t, calcSize values s = .next { answer := .error .valueOutOfRange, block := t } := by
  obtain ⟨t, hphase, -⟩ := validatePhase_tooLarge hd h
  exact ⟨t, by simp [calcSize, hphase]⟩

end Operations

end Sys2Proof.Machine
end

section
/-!
The rest of the proofs on the stream operations: the host's side of the decoder (R107 to R109), which is
the values of a word, the loop of DECOMPRESS word by word, and what it gives for the words of the greedy cut
(R111, R113); the streams of zeros (R116) and of the largest value (R117); then the statements.
-/

namespace Sys2Proof.Machine

/-! ### The values of a word -/

/-- The numbers in the slots of a word's own layout, in slot order (R98, R108). -/
def wordValues (w : Word) : List Word :=
  (List.range (layoutAt (selectorOf w)).count).map fun j =>
    BitVec.ofNat 32 (slotNumber w (selectorOf w) j)

/-- The host reads the result lanes in order (R108). -/
theorem readLanes_of_valid {s : State} (hv : s.valid = true) (c j : Nat) :
    readLanes s c j = .next ((List.range' j c).map fun i => s.lane[Fin.ofNat 28 i]) := by
  induction c generalizing j with
  | zero => rfl
  | succ c ih =>
    rw [readLanes, hostRead_of_valid _ _ hv, andThen_next, ih, andThen_next]
    rfl

/-- An extracted lane below the count holds its slot's number (R98). -/
theorem extractAll_lane_eq (w : Word) {j : Nat} (hj : j < (layoutAt (selectorOf w)).count) :
    (extractAll (selectorOf w) w).lane[Fin.ofNat 28 j]
      = BitVec.ofNat 32 (slotNumber w (selectorOf w) j) := by
  have hval : (Fin.ofNat 28 j).val = j := Nat.mod_eq_of_lt (hj.trans_le (layout_count_le _))
  have hlane : (extractAll (selectorOf w) w).lane[Fin.ofNat 28 j].toNat
      = slotNumber w (selectorOf w) j := by
    rw [extractAll_lane, hval, if_pos hj]
  rw [← hlane, BitVec.ofNat_toNat, BitVec.setWidth_eq]

/-- After UNPACK of a word, the `RES.count` lanes that the host reads hold the word's values. -/
theorem readLanes_extractAll (w : Word) (s : State) :
    readLanes (s.completeOk (extractAll (selectorOf w) w)) (layoutAt (selectorOf w)).count 0
      = .next (wordValues w) := by
  rw [readLanes_of_valid (completeOk_valid s _), ← List.range_eq_range', completeOk_lane]
  exact congrArg _ (List.map_congr_left fun j hj => extractAll_lane_eq w (List.mem_range.1 hj))

/-! ### DECOMPRESS -/

/-- One turn of the loop of R108. -/
theorem unpackLoop_succ {bytes : List Byte} {q : Nat} {w : Word} (hw : memRead bytes (4 * q) = w)
    (m : Nat) (out : List Word) (s : State) : unpackLoop bytes (m + 1) q out s
      = unpackLoop bytes m (q + 1) (out ++ wordValues w)
          (s.completeOk (extractAll (selectorOf w) w)) := by
  rw [unpackLoop, hw, issue_unpack 0#5 w s, execUnpack, andThen_next,
    hostRead_of_valid _ _ (completeOk_valid s _), andThen_next, resultValue_count_toNat,
    completeOk_count, extractAll_count, readLanes_extractAll, andThen_next]

/-- The loop of R108: the values of each word, in stream order. -/
theorem unpackLoop_eq (bytes : List Byte) (m q : Nat) (out : List Word) (s : State) :
    ∃ t, unpackLoop bytes m q out s = .next
      (out ++ (List.range' q m).flatMap fun q => wordValues (memRead bytes (4 * q)), t) := by
  induction m generalizing q out s with
  | zero => exact ⟨s, by simp [unpackLoop]⟩
  | succ m ih =>
    rw [unpackLoop_succ rfl]
    obtain ⟨t, hloop⟩ := ih (q + 1) _ (s.completeOk _)
    refine ⟨t, ?_⟩
    rw [hloop, List.range'_succ, List.flatMap_cons, List.append_assoc]

/-- DECOMPRESS of an aligned byte sequence, word by word (R108, R109). -/
theorem decompress_aligned {bytes : List Byte} (h : bytes.length % 4 = 0) (out : List Word)
    (s : State) : ∃ t, decompress bytes out s = .next
      { answer := .ok ()
        out := out ++ (List.range (bytes.length / 4)).flatMap fun q =>
          wordValues (memRead bytes (4 * q))
        block := t } := by
  obtain ⟨t, hloop⟩ := unpackLoop_eq bytes (bytes.length / 4) 0 out s
  rw [← List.range_eq_range'] at hloop
  exact ⟨t, by simp [decompress, h, hloop]⟩

/-! ### The bytes of a list of words -/

theorem flatMap_le4_length (ws : List Word) : (ws.flatMap le4).length = 4 * ws.length := by
  simp [List.length_flatMap, Nat.mul_comm]

/-- Reading a written stream word by word gives its words (R36). -/
theorem flatMap_memRead_le4 {α : Type} (f : Word → List α) (ws : List Word) :
    ((List.range ws.length).flatMap fun q => f (memRead (ws.flatMap le4) (4 * q))) = ws.flatMap f := by
  induction ws with
  | nil => rfl
  | cons w ws ih =>
    have hnext (q : Nat) : memRead (le4 w ++ ws.flatMap le4) (4 * (q + 1))
        = memRead (ws.flatMap le4) (4 * q) := by
      rw [Nat.mul_succ, Nat.add_comm]
      exact memRead_append_add (le4 w) _ (4 * q)
    rw [List.length_cons, List.range_succ_eq_map, List.flatMap_cons, List.flatMap_map,
      List.flatMap_cons, List.flatMap_cons, Nat.mul_zero, memRead_le4_append]
    simp only [Nat.succ_eq_add_one, hnext, ih]

/-- The last word of a written stream, at the address four bytes before its end. -/
theorem memRead_last_word (ws : List Word) (w : Word) :
    memRead ((ws ++ [w]).flatMap le4) (((ws ++ [w]).flatMap le4).length - 4) = w := by
  have haddr : ((ws ++ [w]).flatMap le4).length - 4 = (ws.flatMap le4).length + 0 := by
    simp only [flatMap_le4_length, List.length_append, List.length_singleton]
    omega
  rw [haddr, List.flatMap_append, memRead_append_add, List.flatMap_singleton]
  exact memRead_le4_append w []

/-- DECOMPRESS of a written stream gives the values of its words (R108). -/
theorem decompress_words (ws : List Word) (out : List Word) (s : State) :
    ∃ t, decompress (ws.flatMap le4) out s
      = .next { answer := .ok (), out := out ++ ws.flatMap wordValues, block := t } := by
  have hlen := flatMap_le4_length ws
  obtain ⟨t, ht⟩ := decompress_aligned (bytes := ws.flatMap le4) (by omega) out s
  refine ⟨t, ?_⟩
  rw [ht, show (ws.flatMap le4).length / 4 = ws.length by omega, flatMap_memRead_le4]

/-! ### The greedy cut, decoded -/

section FirstWindow
variable {values : List Lane} {k : Selector} (hc : choosesFirst values k)
include hc

theorem selectorOf_packedWindow : selectorOf (packedWindow k values).word = k :=
  (packsWindow_packedWindow State.reset hc).selectorOf_word

/-- The first window's word holds the values taken, and 0 in the slots left over (R91). -/
theorem wordValues_packedWindow : wordValues (packedWindow k values).word
    = (values.take (windowTaken k values)).map (fun v => v.setWidth 32)
      ++ List.replicate ((layoutAt k).count - windowTaken k values) 0#32 := by
  have hslot := (packsWindow_packedWindow State.reset hc).slotNumber_word
  have hcount := layout_count_le k
  simp only [completeOk_word, completeOk_sel, completeOk_count, packedWindow_count_toNat] at hslot
  rw [wordValues, selectorOf_packedWindow hc]
  apply List.ext_getElem
  · simp [windowTaken]
  · intro j hj _
    have hj : j < (layoutAt k).count := by simpa using hj
    have hnumber : slotNumber (packedWindow k values).word k j
        = if j < windowTaken k values
          then (windowLanes values 0)[(⟨j, by omega⟩ : Fin 28)].toNat else 0 :=
      hslot ⟨j, by omega⟩ hj
    rw [List.getElem_map, List.getElem_range, hnumber, windowLanes_getElem]
    by_cases htaken : j < windowTaken k values
    · have hlength := htaken.trans_le (windowTaken_le_length k values)
      rw [List.getElem_append_left (by simpa using ⟨htaken, hlength⟩)]
      simp [htaken, hlength]
    · rw [List.getElem_append_right (by simp; omega)]
      simp [htaken]

end FirstWindow

/-- A window that leaves values behind it fills every slot (R91). -/
theorem windowTaken_of_rest {k : Selector} {values : List Lane}
    (h : values.drop (windowTaken k values) ≠ []) : windowTaken k values = (layoutAt k).count := by
  have hrest := List.length_pos_of_ne_nil h
  rw [List.length_drop] at hrest
  rw [windowTaken] at hrest ⊢
  omega

/-- The words of the greedy cut hold the values and then `p` zeros, fewer than the last word has slots
(R111, R113). -/
theorem GreedyStream.wordValues_eq {values : List Lane} {rs : List Results}
    (h : GreedyStream values rs) :
    ∃ p, (rs.map Results.word).flatMap wordValues
        = values.map (fun v => v.setWidth 32) ++ List.replicate p 0#32
      ∧ (values ≠ [] → ∃ before last, rs.map Results.word = before ++ [last]
        ∧ p < (layoutAt (selectorOf last)).count) := by
  induction h with
  | nil => exact ⟨0, rfl, fun hne => absurd rfl hne⟩
  | @cons values k rs hne hc rest ih =>
    obtain ⟨p, hvalues, hlast⟩ := ih
    rw [List.map_cons, List.flatMap_cons, wordValues_packedWindow hc, hvalues]
    by_cases hrest : values.drop (windowTaken k values) = []
    · have hall : values.take (windowTaken k values) = values :=
        List.take_of_length_le (List.drop_eq_nil_iff.1 hrest)
      obtain rfl : rs = [] := by
        rw [hrest] at rest
        cases rest with
        | nil => rfl
        | cons hne => exact absurd rfl hne
      obtain rfl : p = 0 := by simpa [hrest] using hvalues.symm
      have htaken := windowTaken_pos k hne
      have hcount := layout_count_pos k
      refine ⟨(layoutAt k).count - windowTaken k values, by simp [hrest, hall],
        fun _ => ⟨[], _, rfl, ?_⟩⟩
      rw [selectorOf_packedWindow hc]
      omega
    · obtain ⟨before, last, hwords, hp⟩ := hlast hrest
      refine ⟨p, ?_, fun _ => ⟨_ :: before, last, congrArg _ hwords, hp⟩⟩
      rw [windowTaken_of_rest hrest, Nat.sub_self, List.replicate_zero, List.append_nil,
        ← List.append_assoc, ← List.map_append, List.take_append_drop]

/-- DECOMPRESS of what COMPRESS wrote for a representable input (R111, R113). -/
theorem decompress_greedy {values : List Lane} {rs : List Results} (h : GreedyStream values rs)
    (s : State) : ∃ p t, decompress ((rs.map Results.word).flatMap le4) [] s
        = .next { answer := .ok ()
                  out := values.map (fun v => v.setWidth 32) ++ List.replicate p 0#32
                  block := t }
      ∧ (values ≠ [] → ∃ before last, rs.map Results.word = before ++ [last]
        ∧ p < (layoutAt (selectorOf last)).count) := by
  obtain ⟨p, hvalues, hlast⟩ := h.wordValues_eq
  obtain ⟨t, ht⟩ := decompress_words (rs.map Results.word) [] s
  exact ⟨p, t, by rw [ht, hvalues, List.nil_append], hlast⟩

/-! ### Zeros -/

theorem payloadSum_of_zero {k : Selector} {lanes : Lanes} (h : ∀ j, laneValue lanes j = 0) (c : Nat) :
    payloadSum k lanes c = 0 := by
  rw [payloadSum_eq_sum_range]
  exact Finset.sum_eq_zero fun j _ => by rw [h j, Nat.zero_mul]

theorem windowLanes_replicate_zero (n : Nat) (j : Fin 28) :
    (windowLanes (List.replicate n 0#64) 0)[j] = 0#64 := by
  rw [windowLanes_getElem, List.getD_eq_getElem?_getD, List.getElem?_replicate]
  split <;> rfl

/-- The first layout fits every window of zeros, so it is the one chosen (R86, R116). -/
theorem choosesFirst_zeros {n : Nat} {k : Selector} (hc : choosesFirst (List.replicate n 0#64) k) :
    k = 0#4 := by
  by_contra hk
  have hpos : (0#4).toNat < k.toNat := by
    by_contra h
    exact hk (BitVec.eq_of_toNat_eq (by simpa using h))
  refine (firstFit_of_chooseLayout hc).2 0#4 hpos fun j _ => ?_
  rw [windowLanes_replicate_zero]
  exact Nat.two_pow_pos _

theorem packedWindow_zeros_word {n : Nat} (hc : choosesFirst (List.replicate n 0#64) 0#4) :
    (packedWindow 0#4 (List.replicate n 0#64)).word = 0#32 := by
  have hlane (j : Nat) : laneValue (windowLanes (List.replicate n 0#64) 0) j = 0 := by
    rw [laneValue]
    split
    · exact congrArg BitVec.toNat (windowLanes_replicate_zero n ⟨j, ‹_›⟩)
    · rfl
  have hword := (packsWindow_packedWindow State.reset hc).word_toNat
  rw [payloadSum_of_zero hlane] at hword
  apply BitVec.eq_of_toNat_eq
  rw [← completeOk_word State.reset, hword]
  simp [packedWindow]

/-- The greedy cut of zeros: a word of zeros for each 28 of them, rounded up (R116). -/
theorem GreedyStream.words_zeros {n : Nat} {rs : List Results}
    (h : GreedyStream (List.replicate n 0#64) rs) :
    rs.map Results.word = List.replicate ((n + 27) / 28) 0#32 := by
  generalize hzeros : List.replicate n 0#64 = values at h
  induction h generalizing n with
  | nil =>
    obtain rfl : n = 0 := by simpa using hzeros
    rfl
  | @cons values k rs hne hc rest ih =>
    subst hzeros
    obtain rfl := choosesFirst_zeros hc
    have hpos : n ≠ 0 := by
      rintro rfl
      exact hne rfl
    have htaken : windowTaken 0#4 (List.replicate n 0#64) = min 28 n := by
      rw [windowTaken, List.length_replicate]
      rfl
    have htail := ih (n := n - min 28 n) (by rw [htaken, List.drop_replicate])
    have hwords : (n + 27) / 28 = (n - min 28 n + 27) / 28 + 1 := by omega
    rw [List.map_cons, packedWindow_zeros_word hc, htail, hwords, List.replicate_succ]

/-- The bytes of words that are 0. -/
theorem flatMap_le4_zeros (m : Nat) :
    (List.replicate m 0#32).flatMap le4 = List.replicate (4 * m) 0#8 := by
  induction m with
  | zero => rfl
  | succ m ih => rw [List.replicate_succ, List.flatMap_cons, ih]; rfl

/-! ### The largest value -/

/-- One value of 28 bits takes the last layout (R117). -/
theorem greedyStream_single_maximum :
    GreedyStream [268435455#64] [packedWindow 15#4 [268435455#64]] := by
  have hc : choosesFirst [268435455#64] 15#4 := by
    unfold choosesFirst
    decide
  exact .cons (List.cons_ne_nil _ _) hc .nil

/-! ### The statements -/

/-- Settles O43: no loop takes a turn. -/
theorem emptyStreams : Obligations.EmptyStreams := by
  intro s bytes out
  exact ⟨by simp [compress, validatePhase_nil, packLoop],
    by simp [calcSize, validatePhase_nil, sizeLoop], by simp [decompress, unpackLoop]⟩

/-- Settles O44: a representable input is packed, and any other is rejected in phase 1. -/
theorem compressRejectsExactlyTooLarge : Obligations.CompressRejectsExactlyTooLarge := by
  intro values out s _ hd
  rw [← not_representable_iff]
  by_cases hr : representable values
  · obtain ⟨rs, h⟩ := exists_greedyStream hr
    exact ⟨_, compress_greedy hd hr h out, by simp [hr], by simp [hr]⟩
  · obtain ⟨tail, t, -, he⟩ := compress_tooLarge hd (not_representable_iff.1 hr) out
    exact ⟨_, he, by simp [hr], by simp [hr]⟩

/-- Settles O45: the free value stands behind the old bytes. -/
theorem failedCompressKeepsOldBytes : Obligations.FailedCompressKeepsOldBytes := by
  intro values out s _ hd hlarge
  obtain ⟨tail, t, herr, he⟩ := compress_tooLarge hd hlarge out
  exact ⟨_, he, rfl, ⟨tail, rfl⟩, herr⟩

/-- Settles O46: with IN_W of 8 or 16 every input is representable. -/
theorem narrowStreamsNeverFail : Obligations.NarrowStreamsNeverFail := by
  intro values out s hw hd
  have hr := narrow_representable hw hd
  obtain ⟨rs, h⟩ := exists_greedyStream hr
  obtain ⟨t, hsize⟩ := calcSize_greedy hd hr h
  exact ⟨⟨_, compress_greedy hd hr h out, rfl⟩, _, _, hsize, rfl⟩

/-- Settles O48: the words of the greedy cut decode to the values and zeros. -/
theorem streamRoundTrip : Obligations.StreamRoundTrip := by
  intro values s s' hd hr
  obtain ⟨rs, h⟩ := exists_greedyStream hr
  obtain ⟨p, t, hdec, -⟩ := decompress_greedy h s'
  exact ⟨_, _, p, compress_greedy hd hr h [], rfl, hdec, rfl, rfl⟩

/-- Settles O49: both operations follow the same greedy cut, or the same phase 1. -/
theorem sizeCoherence : Obligations.SizeCoherence := by
  intro values s s' hd hinW
  have hd' : fitDomain s'.inW values := hinW ▸ hd
  by_cases hr : representable values
  · obtain ⟨rs, h⟩ := exists_greedyStream hr
    obtain ⟨t, hsize⟩ := calcSize_greedy hd' hr h
    refine ⟨_, _, compress_greedy hd hr h [], hsize, fun _ => ?_, fun hne => absurd rfl hne,
      by simp [hr]⟩
    rw [List.nil_append, flatMap_le4_length, List.length_map]
  · have hlarge := not_representable_iff.1 hr
    obtain ⟨tail, t, -, he⟩ := compress_tooLarge hd hlarge []
    obtain ⟨u, hsize⟩ := calcSize_tooLarge hd' hlarge
    exact ⟨_, _, he, hsize, fun hok => (by cases hok), fun _ => ⟨rfl, rfl⟩, by simp [hr]⟩

/-- Settles O50: the padding of the decoded greedy cut. -/
theorem paddingBelowLastSlotCount : Obligations.PaddingBelowLastSlotCount := by
  intro values s s' hne hd hr
  obtain ⟨rs, h⟩ := exists_greedyStream hr
  obtain ⟨p, t, hdec, hlast⟩ := decompress_greedy h s'
  obtain ⟨before, last, hwords, hp⟩ := hlast hne
  have hread : memRead ((rs.map Results.word).flatMap le4)
      (((rs.map Results.word).flatMap le4).length - 4) = last := by
    rw [hwords, memRead_last_word]
  refine ⟨_, _, p, compress_greedy hd hr h [], hdec, by simp, ?_, by simp, by simp⟩
  rw [List.nil_append, hread]
  exact hp

/-- Settles O51: the greedy cut of zeros, as bytes. -/
theorem zerosPackDensely : Obligations.ZerosPackDensely := by
  intro n s _
  have hd : fitDomain s.inW (List.replicate n 0#64) := by simp [fitDomain]
  have hr : representable (List.replicate n 0#64) := by simp [representable]
  obtain ⟨rs, h⟩ := exists_greedyStream hr
  refine ⟨_, compress_greedy hd hr h [], rfl, ?_⟩
  rw [List.nil_append, h.words_zeros, flatMap_le4_zeros]

/-- Settles O52: the cut is one word in the last layout. -/
theorem singleMaximumValue : Obligations.SingleMaximumValue := by
  intro s hw
  have hd : fitDomain s.inW [268435455#64] := by
    rcases hw with hw | hw <;> simp [fitDomain, hw, InputWidth.bits]
  have hr : representable [268435455#64] := by simp [representable]
  have hword : (packedWindow 15#4 [268435455#64]).word = 0xFFFFFFFF#32 := by decide
  have hbytes : ([] : List Byte) ++ ([packedWindow 15#4 [268435455#64]].map Results.word).flatMap le4
      = [0xFF#8, 0xFF#8, 0xFF#8, 0xFF#8] := by
    rw [List.map_singleton, hword]
    rfl
  refine ⟨_, compress_greedy hd hr greedyStream_single_maximum [], rfl, hbytes, ?_, rfl⟩
  rw [hbytes]
  exact memRead_le4_append 0xFFFFFFFF#32 []

/-- Settles O53: the length is tested before anything is issued. -/
theorem misalignedStreamRejectedWhole : Obligations.MisalignedStreamRejectedWhole := by
  intro bytes out s h
  rw [decompress, if_pos h]

/-- Settles O54: the loop of R108 by its words. -/
theorem alignedStreamAlwaysDecodes : Obligations.AlignedStreamAlwaysDecodes := by
  intro bytes out s h
  obtain ⟨t, ht⟩ := decompress_aligned h out s
  exact ⟨_, ht, rfl, rfl⟩

/-- Settles O55: the first window of the greedy cut, and COMPRESS again for the rest of it. -/
theorem compressPacksGreedyWords : Obligations.CompressPacksGreedyWords := by
  refine ⟨fun out s => (emptyStreams s out []).1, fun values out s n lanes hne hd hr hn hlanes => ?_⟩
  obtain ⟨rs, h⟩ := exists_greedyStream hr
  have hcompress := compress_greedy hd hr h out
  cases h with
  | nil => exact absurd rfl hne
  | @cons _ k rs _ hc rest =>
    obtain rfl : n = windowCount values 0 := BitVec.eq_of_toNat_eq (by simp [hn, windowCount_toNat])
    have hwindow (j : Fin 28) (hj : j.val < (windowCount values 0).toNat) :
        lanes[j] = (windowLanes values 0)[j] := by
      rw [hlanes j hj, windowLanes_getElem, Nat.zero_add]
    have hpack := (lanesBeyondCountUnread _ _ _ s hwindow).2.1.trans (exec_pack_window s hc)
    have hfirst := (packsWindow_of_pack_ok hpack (completeOk_status s _)).sel_first
    have hrest := compress_greedy (s := s.completeOk (packedWindow k values)) (hd.drop _) (hr.drop _)
      rest (out ++ le4 (packedWindow k values).word)
    have hcount := packedWindow_count_toNat k values
    refine ⟨_, hpack, completeOk_completedOk s _, hfirst, ?_, ?_, ?_, _, hcompress, rfl⟩
    · exact hcount ▸ windowTaken_pos k hne
    · exact hcount ▸ windowTaken_le_length k values
    · rw [completeOk_count, hcount, completeOk_word, hrest, hcompress, List.append_assoc]
      rfl

end Sys2Proof.Machine
end

section
/-!
Proofs of the statements on completions (60_exceptions.md R119, R121, R122). First the status of the window
commands as a number, from the count and the lanes alone, and what a command can complete with; then the
statements.
-/

namespace Sys2Proof.Machine

/-! ### The status a command completes with -/

/-- The outcome is a completion with the code `code` in RES.status (R118). -/
def completesWith (o : Host.Outcome State Fault Refusal) (code : BitVec 3) : Prop :=
  ∃ t, o = .next t ∧ t.valid = true ∧ t.status = code

theorem completesWith_completeOk (s : State) (r : Results) :
    completesWith (.next (s.completeOk r)) 0#3 :=
  ⟨_, rfl, completeOk_valid s r, completeOk_status s r⟩

theorem completesWith_raiseStatus (s : State) (e : Status) :
    completesWith (.next (s.raiseStatus e)) e.code :=
  ⟨_, rfl, raiseStatus_valid s e, raiseStatus_status s e⟩

theorem status_eq_of_completesWith {o : Host.Outcome State Fault Refusal} {code : BitVec 3} {t : State}
    (h : completesWith o code) (ht : o = .next t) : t.status = code := by
  obtain ⟨t', ht', -, hcode⟩ := h
  cases ht'.symm.trans ht
  exact hcode

/-- VALIDATE's status for the window `lanes[0 .. n-1]`, first error first (R122). -/
def validateStatus (n : Nat) (lanes : Lanes) : BitVec 3 :=
  if 29 ≤ n then 4#3
  else if ∃ j : Fin 28, j.val < n ∧ 268435455 < lanes[j].toNat then 1#3
  else 0#3

/-- The status of PACK and SELECT for the window `lanes[0 .. n-1]`, first error first (R122). -/
def choiceStatus (n : Nat) (lanes : Lanes) : BitVec 3 :=
  if 29 ≤ n then 4#3
  else if n = 0 then 3#3
  else if 268435455 < lanes[0].toNat then 2#3
  else 0#3

section Completions
variable (n : Count) (lanes : Lanes) (s : State)

theorem exec_validate_completesWith :
    completesWith (exec (.validate n lanes) s) (validateStatus n.toNat lanes) := by
  rw [validateStatus]
  split
  case isTrue hbad =>
    rw [exec_validate_of_badCount s hbad]
    exact completesWith_raiseStatus s .badCount
  case isFalse hle =>
    have hn : n.toNat ≤ 28 := by omega
    split
    case isTrue hwide =>
      rw [exec_validate_of_tooLarge s hn hwide]
      exact completesWith_raiseStatus s .valueOutOfRange
    case isFalse hfits =>
      rw [exec_validate_of_representable s hn fun j hj =>
        Nat.le_of_not_lt fun hwide => hfits ⟨j, hj, hwide⟩]
      exact completesWith_completeOk s {}

/-- The choice of layout by its status: a failure reports it, and a layout is chosen where it is 0. -/
theorem chooseLayout_status :
    (∃ e, chooseLayout n lanes = .error e ∧ choiceStatus n.toNat lanes = e.code)
    ∨ ∃ k, chooseLayout n lanes = .ok k ∧ choiceStatus n.toNat lanes = 0#3 := by
  rw [choiceStatus]
  rcases chooseLayout_cases n lanes with
    ⟨hbad, he⟩ | ⟨hempty, he⟩ | ⟨hpos, hn, hwide, he⟩ | ⟨hpos, hn, hfirst, k, -, he⟩
  · exact .inl ⟨_, he, if_pos hbad⟩
  · exact .inl ⟨_, he, by rw [if_neg (by omega), if_pos hempty]; rfl⟩
  · exact .inl ⟨_, he, by rw [if_neg (by omega), if_neg (by omega), if_pos hwide]; rfl⟩
  · exact .inr ⟨k, he, by rw [if_neg (by omega), if_neg (by omega), if_neg (by omega)]⟩

theorem exec_pack_completesWith :
    completesWith (exec (.pack n lanes) s) (choiceStatus n.toNat lanes) := by
  rcases chooseLayout_status n lanes with ⟨e, hc, hcode⟩ | ⟨k, hc, hcode⟩
  · rw [exec_pack_of_error s hc, hcode]
    exact completesWith_raiseStatus s e
  · rw [exec_pack_of_ok s hc, hcode]
    exact completesWith_completeOk s _

/-- SELECT's status is PACK's (R93). -/
theorem exec_select_completesWith :
    completesWith (exec (.select n lanes) s) (choiceStatus n.toNat lanes) := by
  obtain ⟨t, u, hpack, hselect, hstatus, -, -, -, hvalid, -⟩ := packAndSelectAgree n lanes s
  obtain ⟨t', ht', hv, hcode⟩ := exec_pack_completesWith n lanes s
  cases ht'.symm.trans hpack
  exact ⟨u, hselect, hvalid ▸ hv, hstatus ▸ hcode⟩

end Completions

theorem exec_unpack_completesWith (n : Count) (w : Word) (s : State) :
    completesWith (exec (.unpack n w) s) 0#3 := by
  rw [exec_unpack]
  exact completesWith_completeOk s _

/-! ### Which statuses are reached -/

/-- The codes a command reaches are the values of its status function: the state adds none. -/
theorem reaches_iff {α β : Type} {i : α → β → Instr} {status : α → β → BitVec 3}
    (h : ∀ a b s, completesWith (exec (i a b) s) (status a b)) (c : BitVec 3) :
    (∃ a b s t, exec (i a b) s = .next t ∧ t.status = c) ↔ ∃ a b, status a b = c := by
  constructor
  · rintro ⟨a, b, s, t, ht, rfl⟩
    exact ⟨a, b, (status_eq_of_completesWith (h a b s) ht).symm⟩
  · rintro ⟨a, b, rfl⟩
    obtain ⟨t, ht, -, hcode⟩ := h a b State.reset
    exact ⟨a, b, State.reset, t, ht, hcode⟩

/-- Lanes that all hold 2^28, the first value that no slot can hold (R10). -/
def tooLargeLanes : Lanes := Vector.replicate 28 268435456#64

theorem validateStatus_values (c : BitVec 3) :
    (∃ (n : Count) (lanes : Lanes), validateStatus n.toNat lanes = c)
      ↔ c = 0#3 ∨ c = 1#3 ∨ c = 4#3 := by
  constructor
  · rintro ⟨n, lanes, rfl⟩
    rw [validateStatus]
    split
    · simp
    split <;> simp
  · rintro (rfl | rfl | rfl)
    · exact ⟨0#5, zeroLanes, by decide⟩
    · exact ⟨1#5, tooLargeLanes, by decide⟩
    · exact ⟨29#5, zeroLanes, by decide⟩

theorem choiceStatus_values (c : BitVec 3) :
    (∃ (n : Count) (lanes : Lanes), choiceStatus n.toNat lanes = c)
      ↔ c = 0#3 ∨ c = 2#3 ∨ c = 3#3 ∨ c = 4#3 := by
  constructor
  · rintro ⟨n, lanes, rfl⟩
    rw [choiceStatus]
    split
    · simp
    split
    · simp
    split <;> simp
  · rintro (rfl | rfl | rfl | rfl)
    · exact ⟨1#5, zeroLanes, by decide⟩
    · exact ⟨1#5, tooLargeLanes, by decide⟩
    · exact ⟨0#5, zeroLanes, by decide⟩
    · exact ⟨29#5, zeroLanes, by decide⟩

/-- A step that is presented a reserved operation completes with IllegalCommand (R61). -/
theorem step_reserved_completesWith {s : State} {c : Command} {rest : List HostAction}
    (hin : s.input = .present (.command c) :: rest) (hop : 4 ≤ c.ctrl.toNat % 8) :
    completesWith (step s) 5#3 := by
  obtain ⟨t, ht, ⟨hv, hcode, -⟩, -⟩ := reservedOperationIsIllegal.1 s c rest hin hop
  exact ⟨t, ht, hv, hcode⟩

/-- A command with the lowest reserved operation code, 4, and nothing else set (R61). -/
def reservedCommand : Command := ⟨4#8, zeroLanes, 0#32⟩

theorem reservedCommand_operation : 4 ≤ reservedCommand.ctrl.toNat % 8 := by decide

/-! ### The statements -/

/-- Settles O39: every instruction answers a completion, with data only where the code is OK. -/
theorem errorsClearEveryDataRegister : Obligations.ErrorsClearEveryDataRegister := by
  intro i s t h
  obtain ⟨code, r, he, herr⟩ := exec_completes i s
  cases he.symm.trans h
  refine ⟨complete_sameOutside s code r, fun hne => ?_⟩
  obtain rfl : r = {} := herr fun hok => hne ((Status.code_eq_zero_iff code).2 hok)
  exact raiseStatus_completedError s code

/-- Settles O40: each command's codes are the values of its status function. -/
theorem completionsEachCommandReaches : Obligations.CompletionsEachCommandReaches := by
  refine ⟨fun c => (reaches_iff exec_validate_completesWith c).trans (validateStatus_values c),
    fun c => (reaches_iff exec_pack_completesWith c).trans (choiceStatus_values c),
    fun c => (reaches_iff exec_select_completesWith c).trans (choiceStatus_values c),
    fun c => (reaches_iff exec_unpack_completesWith c).trans ?unpack,
    fun c => ⟨?onlyIllegal, ?illegal⟩⟩
  case unpack => exact ⟨fun ⟨_, _, h⟩ => h.symm, fun h => ⟨0#5, 0#32, h.symm⟩⟩
  case onlyIllegal =>
    rintro ⟨cmd, s, rest, t, hop, hin, ht, rfl⟩
    exact status_eq_of_completesWith (step_reserved_completesWith hin hop) ht
  case illegal =>
    rintro rfl
    have hin := present_input State.reset (.command reservedCommand)
    obtain ⟨t, ht, -, hcode⟩ := step_reserved_completesWith hin reservedCommand_operation
    exact ⟨reservedCommand, _, _, t, reservedCommand_operation, hin, ht, hcode⟩

/-- Settles O41: with the operation code a literal, the chain's tests of it evaluate, and what is left
is the command's own status. -/
theorem errorPriority : Obligations.ErrorPriority := by
  intro s c rest hin hfit
  have hstep {i : Instr} (hd : decodeCommand c = .ok i) (hw : i.wellFormed s.inW = true) :=
    stepRunsDecodedInstruction s (.command c) rest i hin hd hw
  have hn := countOf_toNat c.ctrl
  rw [← operationOf_toNat, ← hn]
  rcases decodeCommand_cases c with ⟨hop, hd⟩ | ⟨hop, hd⟩ | ⟨hop, hd⟩ | ⟨hop, hd⟩ | ⟨hop, -⟩
  · rw [hop, hstep hd hfit]
    exact exec_validate_completesWith _ _ _
  · rw [hop, hstep hd hfit]
    exact exec_pack_completesWith _ _ _
  · rw [hop, hstep hd hfit]
    exact exec_select_completesWith _ _ _
  · rw [hop, hstep hd rfl]
    exact exec_unpack_completesWith _ _ _
  · rw [if_pos hop]
    rw [operationOf_toNat] at hop
    exact step_reserved_completesWith hin hop

end Sys2Proof.Machine
end
